-- ==== Sys2Proof/Word.lean ====
section
/-! DEFINITION. The value types of the engine: the 16-bit accumulator word, the 8-bit message byte, the 1-bit
port, and the message. `00_scope.md` R5 and R6: every value is unsigned, bit 0 is the least significant, and the
register is exactly 16 bits wide, so no masking step exists (`10_state.md` R11). -/

namespace Sys2Proof

/-- A 16-bit value of the accumulator (`00_scope.md` R5, `W` = 16). -/
abbrev Word := BitVec 16

/-- An 8-bit message byte or result byte (`00_scope.md` R5, `BYTE_W` = 8). -/
abbrev Byte := BitVec 8

/-- A 1-bit port (`10_state.md` R18, R19). -/
abbrev Bit := BitVec 1

/-- An ordered finite sequence of bytes, first byte first (`20_memory.md` R24, R26). There is no maximum length
(`00_scope.md` R5, `92_eei_decisions.md` D17). -/
abbrev Message := List Byte

/-- The step selector `{busy, op, din}` (`30_encoding.md` R38). -/
abbrev Selector := BitVec 11

end Sys2Proof
end

