-- ==== Sys2Proof/Syntax.lean ====
section
/-! DEFINITION. The five steps of the opcode table, what the host drives at one tick, and the trace lines in which
a program is written (`30_encoding.md` R36 to R39 and R46). -/

namespace Sys2Proof

/-- The engine's steps, one constructor for each row of the opcode table (`30_encoding.md` R39). Bits the row does
not examine are no part of the step (`30_encoding.md` R42). -/
inductive Instr where
  /-- `1xxxxxxxxxx`: one bit step of the polynomial feedback (`40_engine_commands.md` R52). -/
  | shift
  /-- `000xxxxxxxx`: no operation (`40_engine_commands.md` R49). -/
  | nop
  /-- `001xxxxxxxx`: start a new message (`40_engine_commands.md` R50). -/
  | init
  /-- `010dddddddd`: take in one message byte (`40_engine_commands.md` R51). -/
  | data (din : Byte)
  /-- `011xxxxxxxx`: the reserved opcode (`40_engine_commands.md` R53). -/
  | rsvd
deriving DecidableEq, Repr

/-- What the host drives on the three input ports at one tick (`10_state.md` R18). -/
structure Inputs where
  /-- Synchronous reset, active at 1. -/
  rst : Bit
  /-- The command opcode (`30_encoding.md` R37). -/
  op  : BitVec 2
  /-- The message byte that goes with DATA. -/
  din : Byte
deriving DecidableEq, Repr, Inhabited

/-- One line of a trace (`30_encoding.md` R46). A `RESET` line leaves `op` and `din` to the host. -/
inductive Line where
  | reset (op : BitVec 2) (din : Byte)
  | nop
  | init
  | data (b : Byte)
deriving DecidableEq, Repr

end Sys2Proof
end

