-- ==== Sys2Proof/Decode.lean ====
section
/-! DEFINITION. The step selector, the decoder (`30_encoding.md` R38, R39), its rejection of numbers that are no
selector, the encoder, and the opcode table's own rows. -/

namespace Sys2Proof

/-- `op` is bits 9:8 of the selector (`30_encoding.md` R38). -/
def Selector.op (S : Selector) : BitVec 2 := S.extractLsb' 8 2

/-- `din` is bits 7:0 of the selector (`30_encoding.md` R38). -/
def Selector.din (S : Selector) : Byte := S.extractLsb' 0 8

/-- `busy` is bit 10 of the selector (`30_encoding.md` R38). -/
def Selector.busy (S : Selector) : Bit := S.extractLsb' 10 1

/-- The command word `cmd = {op, din}` (`30_encoding.md` R36). -/
def Inputs.cmd (p : Inputs) : BitVec 10 := p.op ++ p.din

/-- The step selector `S = {busy, op, din}`, bit 10 first (`30_encoding.md` R38). -/
def selector (busy : Bit) (p : Inputs) : Selector := busy ++ p.cmd

/-- The step a selector selects: first `busy`, then `op` (`30_encoding.md` R39). Total: every one of the 2048 values
selects exactly one step. -/
def decode (S : Selector) : Instr :=
  if Selector.busy S = 1#1 then .shift
  else if Selector.op S = 0b00#2 then .nop
  else if Selector.op S = 0b01#2 then .init
  else if Selector.op S = 0b10#2 then .data (Selector.din S)
  else .rsvd

/-- Why a number is not decoded. -/
inductive DecodeError where
  /-- The number has a bit above bit 10: it is no 11-bit selector (`30_encoding.md` R38). -/
  | widerThanSelector
deriving DecidableEq, Repr

/-- The step of a selector given as a number, which a number of more than 11 bits is not (DESIGN CHOICE, log entry
12). -/
def decodeNumber (w : Nat) : Except DecodeError Instr :=
  if w < 2 ^ 11 then .ok (decode (BitVec.ofNat 11 w)) else .error .widerThanSelector

/-- The decoder on a row of the opcode table, its bits numbered as the table numbers them: the selector's bit 0 is
bit 0. The bits above `nbits` are 0. -/
def decodeTableWord (nbits w : Nat) : Option Instr :=
  match decodeNumber (w % 2 ^ nbits) with
  | .ok i => some i
  | .error _ => none

/-- The selector of a step, with 0 in the bits its row does not examine (`30_encoding.md` R39; R46 spells `din`
as `0x00` where it is ignored). -/
def encode : Instr → Selector
  | .shift => 0x400#11
  | .nop => 0x000#11
  | .init => 0x100#11
  | .data b => 0x200#11 ||| b.setWidth 11
  | .rsvd => 0x300#11

/-- The bits of the selector that a step's row examines or takes as its field (`30_encoding.md` R39): the row's
mask, and for DATA the field `din` too. -/
def Instr.examined : Instr → Selector
  | .shift => 0x400#11
  | .nop => 0x700#11
  | .init => 0x700#11
  | .data _ => 0x7FF#11
  | .rsvd => 0x700#11

/-- One row of the opcode map (`30_encoding.md` R39). -/
structure OpcodeRow where
  mnemonic : String
  mask     : Selector
  value    : Selector
deriving DecidableEq, Repr

/-- A selector selects the row for which `S & mask = match` (`30_encoding.md` R39). -/
def OpcodeRow.selects (r : OpcodeRow) (S : Selector) : Bool := S &&& r.mask == r.value

/-- The opcode map, row by row (`30_encoding.md` R39). -/
def opcodeMap : List OpcodeRow :=
  [⟨"SHIFT", 0x400#11, 0x400#11⟩,
   ⟨"NOP",   0x700#11, 0x000#11⟩,
   ⟨"INIT",  0x700#11, 0x100#11⟩,
   ⟨"DATA",  0x700#11, 0x200#11⟩,
   ⟨"RSVD",  0x700#11, 0x300#11⟩]

/-- The mnemonic of a step (`30_encoding.md` R37, R39). -/
def Instr.mnemonic : Instr → String
  | .shift => "SHIFT"
  | .nop => "NOP"
  | .init => "INIT"
  | .data _ => "DATA"
  | .rsvd => "RSVD"

end Sys2Proof
end

