-- ==== Sys2Proof/Config.lean ====
section
/-! DEFINITION. What the spec leaves free. The engine itself has no configuration (`10_state.md` R17): its constants
are literals and stand in Machine/Compute.lean. The open parameter `PowerOnState` is the two arguments of
`State.powerOn` (Machine/State.lean), over which every statement about it quantifies. The host's inputs beyond the
ticks a trace lists are the free value below. -/

namespace Sys2Proof

/-- FREE VALUE (log entry 2). What the host drives at a tick for which State lists nothing: "the choice of inputs at
each tick" is "a parameter of the step relation" (`00_scope.md` section 6). It has no body, so nothing can be proved
about which inputs these are: a statement that meets it holds for every host. -/
opaque Config.hostInput : Nat → Inputs

end Sys2Proof
end

