-- ==== Sys2Proof/Machine/Compute.lean ====
section
/-! DEFINITION. The constants and the pure functions of the engine (`00_scope.md` R5, R7; `41_compute.md` R57 to R60;
`42_result_split.md` R73), and the derived forms a host or a proof compares them with (`41_compute.md` R69, R71,
R72). Nothing here reads State. -/

namespace Sys2Proof.Machine

/-- `INIT_VALUE` (`00_scope.md` R5). -/
def initValue : Word := 0xFFFF#16

/-- `POLY`, the reflected form of `0x8005` (`00_scope.md` R2, R5). -/
def poly : Word := 0xA001#16

/-- `BITS_PER_BYTE` (`00_scope.md` R5). -/
def bitsPerByte : Nat := 8

/-- `shift1(c)` (`41_compute.md` R57): a logical right shift by one, with an XOR of `POLY` when the bit shifted
out was 1. -/
def shift1 (c : Word) : Word :=
  if c.getLsbD 0 then (c >>> 1) ^^^ poly else c >>> 1

/-- `zext_16(b)` (`00_scope.md` R6 notation), the only operand form of the engine (`30_encoding.md` R41). -/
def zext16 (b : Byte) : Word := b.setWidth 16

/-- `absorb(c, b)` (`41_compute.md` R58). -/
def absorb (c : Word) (b : Byte) : Word := c ^^^ zext16 b

/-- `shift1` applied `k` times. -/
def shiftTimes : Nat → Word → Word
  | 0, c => c
  | k + 1, c => shiftTimes k (shift1 c)

/-- `fold(c, b)` (`41_compute.md` R59): `absorb`, then exactly eight applications of `shift1`. -/
def fold (c : Word) (b : Byte) : Word := shiftTimes bitsPerByte (absorb c b)

/-- The left fold of `fold` over a message from any starting value (`41_compute.md` R60, R67). -/
def foldMessage (c : Word) (m : Message) : Word := m.foldl fold c

/-- `compute(m)` (`41_compute.md` R60): from `0xFFFF`, with nothing done to the last value. -/
def compute (m : Message) : Word := foldMessage initValue m

/-- `split(c)` (`42_result_split.md` R73): the pair (low, high). -/
def split (c : Word) : Byte × Byte := (c.extractLsb' 0 8, c.extractLsb' 8 8)

/-- `unshift1(d)`, the inverse of `shift1` (`41_compute.md` R69). -/
def unshift1 (d : Word) : Word :=
  (if d.getLsbD 15 then d ^^^ poly else d).extractLsb' 0 15 ++ d.extractLsb' 15 1

/-- `sershift(c, d)` (`41_compute.md` R71): one step of the serial form, which feeds the message bit `d` into the
feedback. -/
def sershift (c : Word) (d : Bool) : Word :=
  (c >>> 1) ^^^ (if (c.getLsbD 0 ^^ d) then poly else 0#16)

/-- The eight serial steps of one byte, bit 0 first (`41_compute.md` R71). -/
def serialFold (c : Word) (b : Byte) : Word :=
  sershift (sershift (sershift (sershift (sershift (sershift (sershift (sershift c
    (b.getLsbD 0)) (b.getLsbD 1)) (b.getLsbD 2)) (b.getLsbD 3))
    (b.getLsbD 4)) (b.getLsbD 5)) (b.getLsbD 6)) (b.getLsbD 7)

/-- `T[i] = fold(0x0000, i)` (`41_compute.md` R72). -/
def tableEntry (i : Byte) : Word := fold 0x0000#16 i

/-- The table form of one byte (`41_compute.md` R72). -/
def tableFold (c : Word) (b : Byte) : Word :=
  (c >>> 8) ^^^ tableEntry ((c ^^^ zext16 b).extractLsb' 0 8)

end Sys2Proof.Machine
end

