-- ==== Sys2Proof/Machine/State.lean ====
section
/-! DEFINITION. The state of one engine and of the host that drives it, as plain data; the reasons a step stops; the
state after reset; and the states before the first reset. -/

namespace Sys2Proof.Machine

/-- The engine's two registers (`10_state.md` R9), before and after the first reset.

`live` holds `crc` and `cnt`, and gives `cnt` "a type with exactly the nine values" 0 to 8 (`10_state.md` R13).
`powerOn` holds the content before any tick with `rst = 1`: any 16-bit value and any 4-bit value, `cnt` from 9 to 15
among them (`70_reset_and_hazards.md` R99). -/
inductive Regs where
  | powerOn (crc : Word) (cnt : BitVec 4)
  | live (crc : Word) (cnt : Fin 9)
deriving DecidableEq, Repr

/-- One engine and its host. The engine's state is `regs` alone (`10_state.md` R9, R22); the output ports are
functions of it (Machine/Flags.lean). `trace` and `drawn` are the host's side. -/
structure State where
  /-- The registers `crc` and `cnt`. -/
  regs  : Regs
  /-- What the host drives at the coming ticks, the next tick first (`30_encoding.md` R46: "one line per tick"). -/
  trace : List Inputs
  /-- The model's own field, no state of the spec: how many of the host's inputs beyond the trace have been taken
  from the free value `Config.hostInput` (log entry 2). -/
  drawn : Nat
deriving DecidableEq, Repr

/-- The engine has no fault: "No step of `40_engine_commands.md` can fault, trap, abort or report an error, for any
state and any input" (`60_exceptions.md` R79). So the type is empty and nothing raises it. Safe: there is nothing a
claim could miss. -/
inductive Fault where
deriving DecidableEq, Repr

/-- The refusals (`60_exceptions.md` R88), all erring toward unprovable, and two that only the form of the model
needs. -/
inductive Refusal where
  /-- Raised by exec for an instruction that has no meaning yet; in this model no arm raises it. Safe. -/
  | notModelled (mnemonic : String)
  /-- `ReservedOp`, raised by RSVD: `op = 0b11` at a tick with `rst = 0` and `busy = 0` (`40_engine_commands.md`
  R53). Safe: nothing is claimed of what the hardware does. -/
  | reservedOp
  /-- `NotReset`, raised by every step but the reset step from a state that no reset step has produced
  (`70_reset_and_hazards.md` R99). Safe: the spec says nothing of such a step. -/
  | notReset
  /-- `ByteOutOfRange`, raised by the boundary `messageOfInts` on a message element outside 0 to 255, never by a step
  (`60_exceptions.md` R80). Safe: the message never reaches the engine. -/
  | byteOutOfRange
  /-- Raised by a meaning applied in a state whose `busy` differs from bit 10 of that step's encoding, so that the
  selector can not select it there (`30_encoding.md` R39); no `step` answers it (log entry 5). Safe. -/
  | notSelected
deriving DecidableEq, Repr

/-- The machine right after a tick with `rst = 1` (`10_state.md` R21, `70_reset_and_hazards.md` R96, R97): `crc` is
`0xFFFF`, `cnt` is 0. No host input is listed and none has been drawn. -/
def State.reset : State := { regs := .live initValue 0, trace := [], drawn := 0 }

/-- The machine before its first reset, for one value of the open parameter `PowerOnState` (`92_eei_decisions.md` D9)
and one trace. The two values are arguments: the model never picks one. -/
def State.powerOn (crc : Word) (cnt : BitVec 4) (trace : List Inputs) : State :=
  { regs := .powerOn crc cnt, trace := trace, drawn := 0 }

end Sys2Proof.Machine
end

