-- ==== Sys2Proof/Machine/Flags.lean ====
section
/-! DEFINITION. The engine's one status output `busy` and its data outputs: combinational functions of the registers,
read at every tick without side effect (`10_state.md` R15, R19; `42_result_split.md` R74, R77). There is no other flag
(`10_state.md` R16). -/

namespace Sys2Proof.Machine

/-- The accumulator `crc` (`10_state.md` R10). -/
def Regs.crc : Regs → Word
  | .powerOn c _ => c
  | .live c _ => c

/-- The bit counter `cnt` as the 4-bit register it is (`10_state.md` R9, R12). -/
def Regs.cnt : Regs → BitVec 4
  | .powerOn _ n => n
  | .live _ n => BitVec.ofNat 4 n.val

/-- `busy = (cnt != 0) ? 1 : 0` (`10_state.md` R15). -/
def Regs.busy (r : Regs) : Bit := if r.cnt = 0#4 then 0#1 else 1#1

/-- The registers come from a reset step, or from steps of the spec from one (`70_reset_and_hazards.md` R99, R109). -/
def Regs.resetDone : Regs → Bool
  | .powerOn _ _ => false
  | .live _ _ => true

/-- The output ports (`10_state.md` R19). -/
structure Outputs where
  busy  : Bit
  crc_q : Word
  res_lo : Byte
  res_hi : Byte
deriving DecidableEq, Repr

/-- What the host reads at a tick (`10_state.md` R19, `42_result_split.md` R74, R77). The composite `SPLIT`
(`30_encoding.md` R47) is the fields `res_lo`, `res_hi`. Before the first reset these are functions of the open
parameter and carry no meaning (`93_implementation_defined.md` U3). -/
def Regs.outputs (r : Regs) : Outputs :=
  { busy := r.busy, crc_q := r.crc, res_lo := (split r.crc).1, res_hi := (split r.crc).2 }

/-- The output `busy` of a state. -/
def State.busy (s : State) : Bit := s.regs.busy

/-- The output ports of a state. -/
def State.outputs (s : State) : Outputs := s.regs.outputs

end Sys2Proof.Machine
end

