-- ==== Sys2Proof/WellFormed.lean ====
section
/-! DEFINITION. What the spec calls well formed: a step that may occur in a trace of the spec, the one spelling of
the inputs a trace line uses, and message elements in the byte range at a boundary that admits wider numbers. -/

namespace Sys2Proof

/-- A step of a well-formed trace: any but the reserved one ("A well-formed trace contains no line that would
select RSVD", `40_engine_commands.md` R53). -/
def Instr.wellFormed : Instr → Bool
  | .shift => true
  | .nop => true
  | .init => true
  | .data _ => true
  | .rsvd => false

/-- The inputs have the one spelling of a trace line (`30_encoding.md` R46): a reset tick with anything, or `NOP`
or `INIT` with `din` at `0x00`, or `DATA` with any byte. -/
def Inputs.wellSpelled (p : Inputs) : Bool :=
  p.rst == 1#1 || p.op == 0b10#2 || ((p.op == 0b00#2 || p.op == 0b01#2) && p.din == 0x00#8)

/-- A message element is a byte value, 0 to 255 (`30_encoding.md` R44, `60_exceptions.md` R80). -/
def byteInRange (n : Int) : Bool := decide (0 ≤ n ∧ n ≤ 255)

/-- Every element of a message given in wider numbers is a byte value (`60_exceptions.md` R80). -/
def messageInRange (m : List Int) : Bool := m.all byteInRange

end Sys2Proof
end

