-- ==== Sys2Proof/Machine/Operands.lean ====
section
/-! DEFINITION. Operands: what a trace line drives (`30_encoding.md` R46), the boundary where a message given in wider
numbers becomes bytes or is refused (`60_exceptions.md` R80), and the byte operand of DATA, `zext16 din`
(`30_encoding.md` R41; `zext16` stands in Machine/Compute.lean). -/

namespace Sys2Proof.Machine

/-- What the host drives for one trace line (`30_encoding.md` R46). -/
def lineInputs : Line → Inputs
  | .reset op din => { rst := 1#1, op := op, din := din }
  | .nop => { rst := 0#1, op := 0b00#2, din := 0x00#8 }
  | .init => { rst := 0#1, op := 0b01#2, din := 0x00#8 }
  | .data b => { rst := 0#1, op := 0b10#2, din := b }

/-- A command presented with `rst = 0` (`30_encoding.md` R36). -/
def command (op : BitVec 2) (din : Byte) : Inputs := { rst := 0#1, op := op, din := din }

/-- A message element of a wider number type as a byte: rejected outside 0 to 255, never masked and never wrapped
(`60_exceptions.md` R80, `93_implementation_defined.md` U1). -/
def byteOfInt (n : Int) : Option Byte :=
  if byteInRange n then some (BitVec.ofInt 8 n) else none

/-- The bytes of a message given in wider numbers, if each of them is one. -/
def bytesOfInts : List Int → Option Message
  | [] => some []
  | n :: m =>
    match byteOfInt n, bytesOfInts m with
    | some b, some bs => some (b :: bs)
    | _, _ => none

/-- The boundary that takes a message in wider numbers: the message, or the refusal `ByteOutOfRange`
(`60_exceptions.md` R80, R88). -/
def messageOfInts (m : List Int) : Host.Outcome Message Fault Refusal :=
  match bytesOfInts m with
  | some bs => .next bs
  | none => .refused .byteOutOfRange

end Sys2Proof.Machine
end

