-- ==== Sys2Proof/Machine/Ops.lean ====
section
/-! DEFINITION. The named operations on the state: sampling the ports at a tick, writing the registers, the reset step,
and the two conditions under which a step of the table runs. The engine has no memory (`20_memory.md` R23), takes no
exception and returns from none (`60_exceptions.md` R79, R84, R85), so no operation of that kind exists. -/

namespace Sys2Proof.Machine

/-- What the ports carry at this tick: the head of the host's trace, or, where the trace lists nothing, a free value
(log entry 2). -/
def State.inputs (s : State) : Inputs :=
  match s.trace with
  | p :: _ => p
  | [] => Config.hostInput s.drawn

/-- The host past the tick it has driven. The registers stand. -/
def State.advance (s : State) : State :=
  match s.trace with
  | _ :: t => { s with trace := t }
  | [] => { s with drawn := s.drawn + 1 }

/-- The register write at the end of a tick. All writes of one tick take effect together (`00_scope.md` section 5). -/
def State.setRegs (s : State) (r : Regs) : State := { s with regs := r }

/-- The host's whole schedule for the coming ticks. -/
def State.load (s : State) (trace : List Inputs) : State := { s with trace := trace }

/-- The reset step (`70_reset_and_hazards.md` R96): from any state whatever. -/
def State.resetStep (s : State) : State := s.setRegs (.live initValue 0)

/-- One fewer SHIFT owed (`40_engine_commands.md` R52). Only called with `cnt` from 1 to 8. -/
def cntPred (n : Fin 9) : Fin 9 := ⟨n.val - 1, by omega⟩

/-- A step whose encoding has `busy = 0`: it runs on an idle engine that has been reset. Before the first reset it is
refused (`70_reset_and_hazards.md` R99); with `busy = 1` it is not the step selected (`30_encoding.md` R39). -/
def atIdle (s : State) (k : Word → Host.Outcome State Fault Refusal) : Host.Outcome State Fault Refusal :=
  match s.regs with
  | .powerOn _ _ => .refused .notReset
  | .live c n => if n = 0 then k c else .refused .notSelected

/-- A step whose encoding has `busy = 1`: it runs on a busy engine that has been reset. -/
def atBusy (s : State) (k : Word → Fin 9 → Host.Outcome State Fault Refusal) : Host.Outcome State Fault Refusal :=
  match s.regs with
  | .powerOn _ _ => .refused .notReset
  | .live c n => if n = 0 then .refused .notSelected else k c n

/-- The selector at this tick (`30_encoding.md` R38): `busy` from the registers before the tick, `op` and `din` from
the ports. -/
def State.selector (s : State) : Selector := Sys2Proof.selector s.busy s.inputs

/-- Registers with the given `busy` that a reset has produced: as they are where they are such already, else with the
accumulator kept and `cnt` at 8 or at 0 (log entry 6). Used only to place an instruction. -/
def Regs.withBusy (busy : Bit) : Regs → Regs
  | .powerOn c _ => .live c (if busy = 1#1 then 8 else 0)
  | .live c n => .live c (if busy = 1#1 then (if n = 0 then 8 else n) else 0)

/-- The state in which the coming tick has the selector `S` and `rst = 0`: the host drives `op` and `din` at that tick,
and the registers have the `busy` of `S`. -/
def State.present (s : State) (S : Selector) : State :=
  { s with
    regs := s.regs.withBusy (Selector.busy S)
    trace := command (Selector.op S) (Selector.din S) :: s.trace.tail }

end Sys2Proof.Machine
end

