-- ==== Sys2Proof/Machine/Engine.lean ====
section
/-! DEFINITION. The five steps of the engine, one definition each (`40_engine_commands.md` R49 to R53). The state they
take is the one in which the host has moved past the tick; the registers are those before the tick. -/

namespace Sys2Proof.Machine

/-- NOP (`40_engine_commands.md` R49): the registers keep their values. -/
def execNop (s : State) : Host.Outcome State Fault Refusal :=
  atIdle s fun c => .next (s.setRegs (.live c 0))

/-- INIT (`40_engine_commands.md` R50): `crc <- 0xFFFF`, `cnt <- 0`. -/
def execInit (s : State) : Host.Outcome State Fault Refusal :=
  atIdle s fun _ => .next (s.setRegs (.live initValue 0))

/-- DATA (`40_engine_commands.md` R51): `crc <- crc ^ zext_16(din)`, `cnt <- 8`. -/
def execData (din : Byte) (s : State) : Host.Outcome State Fault Refusal :=
  atIdle s fun c => .next (s.setRegs (.live (absorb c din) 8))

/-- SHIFT (`40_engine_commands.md` R52): `crc <- shift1(crc)`, `cnt <- cnt - 1`. -/
def execShift (s : State) : Host.Outcome State Fault Refusal :=
  atBusy s fun c n => .next (s.setRegs (.live (shift1 c) (cntPred n)))

/-- RSVD (`40_engine_commands.md` R53): "The step has no defined effect on `crc` or `cnt`"; the model refuses, by the
name `ReservedOp`. -/
def execRsvd (s : State) : Host.Outcome State Fault Refusal :=
  atIdle s fun _ => .refused .reservedOp

end Sys2Proof.Machine
end

