-- ==== Sys2Proof/Machine/Dispatch.lean ====
section
/-! DEFINITION. One arm for each step of the opcode table. -/

namespace Sys2Proof.Machine

def exec (i : Instr) (s : State) : Host.Outcome State Fault Refusal :=
  match i with
  | .shift => Sys2Proof.Machine.execShift s
  | .nop => Sys2Proof.Machine.execNop s
  | .init => Sys2Proof.Machine.execInit s
  | .data din => Sys2Proof.Machine.execData din s
  | .rsvd => Sys2Proof.Machine.execRsvd s

end Sys2Proof.Machine
end

