-- ==== Sys2Proof/Machine/Step.lean ====
section
/-! DEFINITION. One tick: first `rst`, then `busy`, then `op` (`30_encoding.md` R39, `40_engine_commands.md` R48,
`60_exceptions.md` R83). -/

namespace Sys2Proof.Machine

/-- One tick of the engine. The inputs are sampled and the host moves past the tick; then, at `rst = 1`, the reset step
(`70_reset_and_hazards.md` R96), else the step the selector selects (`40_engine_commands.md` R48). -/
def step (s : State) : Host.Outcome State Fault Refusal :=
  if s.inputs.rst = 1#1 then .next s.advance.resetStep else exec (decode s.selector) s.advance

/-- `s` with the selector `w` presented at the coming tick, so that `step` runs its step (log entries 3 and 6): the
host drives `rst = 0` and the selector's `op` and `din`, and the registers, come from a reset, have its `busy`. -/
def State.withFetchWord (s : State) (nbits w : Nat) : State :=
  s.present (BitVec.ofNat 11 (w % 2 ^ nbits))

end Sys2Proof.Machine
end

