-- ==== Sys2Proof/Machine/Trace.lean ====
section
/-! DEFINITION. Programs: traces (`30_encoding.md` R46) and the composite operations, each a fixed sequence of trace
lines that adds no behaviour (`30_encoding.md` R47). -/

namespace Sys2Proof.Machine

/-- `k` ticks of `NOP`. -/
def nopTrace (k : Nat) : List Inputs := List.replicate k (lineInputs .nop)

/-- `WAIT` (`30_encoding.md` R47): `NOP` repeated while `busy = 1`, that is for the owed SHIFT steps. -/
def waitTrace (r : Regs) : List Inputs := nopTrace r.cnt.toNat

/-- `FOLD 0xNN` (`30_encoding.md` R47): `DATA 0xNN`, then `NOP` eight times. -/
def foldTrace (b : Byte) : List Inputs := lineInputs (.data b) :: nopTrace 8

/-- `FOLD` of each byte in turn. -/
def foldsTrace (m : Message) : List Inputs := m.flatMap foldTrace

/-- `COMPUTE` (`30_encoding.md` R47): `INIT`, then `FOLD` of each byte in turn. -/
def computeTrace (m : Message) : List Inputs := lineInputs .init :: foldsTrace m

/-- `CHECK` (`30_encoding.md` R47): `COMPUTE` of a frame that ends with its two check bytes. -/
def checkTrace (frame : Message) : List Inputs := computeTrace frame

/-- `SPLIT` (`30_encoding.md` R47): no tick; the host samples `res_lo`, then `res_hi`. -/
def splitPorts (s : State) : Byte × Byte := (s.outputs.res_lo, s.outputs.res_hi)

/-- `DATA b` presented early and held at every one of `k` ticks (`30_encoding.md` R40, `70_reset_and_hazards.md`
R102). -/
def heldData (k : Nat) (b : Byte) : List Inputs := List.replicate k (lineInputs (.data b))

/-- One byte of a loosely timed message (`41_compute.md` R62): some idle `NOP` ticks before the byte, the byte, and what
the host presents during the eight shifts. -/
structure Segment where
  idle   : Nat
  byte   : Byte
  during : List Inputs
deriving DecidableEq, Repr

/-- The ticks of one segment. -/
def Segment.trace (g : Segment) : List Inputs :=
  nopTrace g.idle ++ lineInputs (.data g.byte) :: g.during

/-- The segment is one FOLD: eight ticks without reset follow its byte (`41_compute.md` R61). -/
def Segment.wellFormed (g : Segment) : Bool :=
  g.during.length == 8 && g.during.all fun p => p.rst == 0#1

/-- The run of one trace from a state: one tick for each of its lines. -/
def runTrace (s : State) (trace : List Inputs) : Host.Outcome State Fault Refusal :=
  Host.Core.run Sys2Proof.core trace.length (s.load trace)

end Sys2Proof.Machine
end

