-- ==== Sys2Proof/Safety.lean ====
section
/-! DEFINITION. What a run is and when a claim about one holds (`70_reset_and_hazards.md` R108, R109), in terms of what
the host knows: which commands it has had accepted, never the value of the accumulator. -/

namespace Sys2Proof.Machine

/-- What a host knows of its engine since the last start step: the bytes accepted and folded, and the byte whose shifts
are still owed, if there is one (`10_state.md` R20: the host can deduce `cnt` by counting ticks). -/
inductive HostView where
  /-- `busy = 0`; all of `done` is folded. -/
  | idle (done : Message)
  /-- `busy = 1`; `done` is folded, `b` is accepted and `left + 1` shifts are owed for it. -/
  | busy (done : Message) (b : Byte) (left : Fin 8)
deriving DecidableEq, Repr

/-- The bytes accepted since the last start step, in order (`20_memory.md` R26). -/
def HostView.accepted : HostView → Message
  | .idle m => m
  | .busy m b _ => m ++ [b]

/-- What the host knows after a tick at which it drives `p`; none where the command accepted is the reserved one
(`30_encoding.md` R40, R43). -/
def HostView.tick (v : HostView) (p : Inputs) : Option HostView :=
  if p.rst = 1#1 then some (.idle [])
  else match v with
    | .busy m b left =>
      if left = 0 then some (.idle (m ++ [b])) else some (.busy m b ⟨left.val - 1, by omega⟩)
    | .idle m =>
      if p.op = 0b00#2 then some (.idle m)
      else if p.op = 0b01#2 then some (.idle [])
      else if p.op = 0b10#2 then some (.busy m p.din 7)
      else none

/-- What the host knows after the ticks of a trace. -/
def HostView.run (v : HostView) : List Inputs → Option HostView
  | [] => some v
  | p :: t =>
    match v.tick p with
    | some v' => v'.run t
    | none => none

/-- The registers an engine must hold for what its host knows (`41_compute.md` R60, R61, R67). -/
def HostView.regs : HostView → Regs
  | .idle m => .live (compute m) 0
  | .busy m b left => .live (shiftTimes (7 - left.val) (absorb (compute m) b)) ⟨left.val + 1, by omega⟩

/-- The engine's registers are those the host's knowledge calls for. -/
abbrev Tracks (v : HostView) (s : State) : Prop := s.regs = v.regs

/-- `ResetDone` (`70_reset_and_hazards.md` R109). -/
abbrev State.resetDone (s : State) : Prop := s.regs.resetDone = true

/-- `Idle` (`70_reset_and_hazards.md` R109): `cnt = 0`. -/
abbrev State.idle (s : State) : Prop := s.regs.cnt = 0#4

/-- A start step (`70_reset_and_hazards.md` R108) under the premises `ResetDone` and `Idle` (R109): a reset tick from any
state, or an INIT accepted at an idle tick. -/
abbrev startsMessage (s : State) (p : Inputs) : Prop :=
  p.rst = 1#1 ∨ (s.resetDone ∧ s.idle ∧ p.op = 0b01#2)

/-- The ticks `t` after a start step feed exactly `m` and end idle, and none accepts the reserved opcode: `NoReservedOp`
and the rest of a run of `m` (`70_reset_and_hazards.md` R108, R109). `BytesInRange` and `OwnInstance` hold by the types:
a message is a list of bytes and `t` is all that is driven. -/
abbrev feeds (t : List Inputs) (m : Message) : Prop := HostView.run (.idle []) t = some (.idle m)

end Sys2Proof.Machine
end

