-- ==== Sys2Proof/Certificates/Slice0/Obligations.lean ====
section
/-! DEFINITION. The statements for the provers. Each docstring names the rule of the spec it formalises. -/

open Sys2Proof Sys2Proof.Machine

/-- `70_reset_and_hazards.md` R95, R96: at a tick with `rst = 1` the reset step, from any state, whatever `op`, `din` and
`busy` are; its register effect is INIT's. -/
def Obligations.ResetStepFromAnyState : Prop :=
  (∀ s : State, s.inputs.rst = 1#1 → step s = .next (s.advance.setRegs (.live 0xFFFF#16 0))) ∧
  (∀ s : State, (s.setRegs (.live 0xFFFF#16 0)).outputs = ⟨0#1, 0xFFFF#16, 0xFF#8, 0xFF#8⟩) ∧
  (∀ (c : Word) (t : List Inputs) (d : Nat),
    exec .init ⟨.live c 0, t, d⟩ = .next (State.setRegs ⟨.live c 0, t, d⟩ (.live 0xFFFF#16 0)))

/-- `70_reset_and_hazards.md` R94: one tick of reset is enough, and it may be held for any number of ticks. -/
def Obligations.ResetMayBeHeld : Prop :=
  ∀ (s : State) (t : List Inputs), t ≠ [] → (∀ p ∈ t, p.rst = 1#1) →
    runTrace s t = .next ⟨.live 0xFFFF#16 0, [], s.drawn⟩

/-- `10_state.md` R21: the registers and outputs after reset; they are those after INIT and those of the empty
message's result. -/
def Obligations.StateAfterReset : Prop :=
  State.reset.regs = .live 0xFFFF#16 0 ∧
  State.reset.outputs = ⟨0#1, 0xFFFF#16, 0xFF#8, 0xFF#8⟩ ∧
  (∀ (c : Word) (t : List Inputs) (d : Nat),
    exec .init ⟨.live c 0, t, d⟩ = .next ⟨State.reset.regs, t, d⟩) ∧
  State.reset.regs = .live (compute []) 0

/-- `70_reset_and_hazards.md` R99: before the first reset, for every value of `PowerOnState`, only the reset step is
defined, and its result does not depend on that value. -/
def Obligations.BeforeTheFirstResetOnlyResetRuns : Prop :=
  (∀ (c : Word) (n : BitVec 4) (p : Inputs) (t : List Inputs), p.rst ≠ 1#1 →
    step (State.powerOn c n (p :: t)) = .refused .notReset) ∧
  (∀ (c : Word) (n : BitVec 4) (p : Inputs) (t : List Inputs), p.rst = 1#1 →
    step (State.powerOn c n (p :: t)) = .next (State.reset.load t)) ∧
  (∀ (i : Instr) (c : Word) (n : BitVec 4) (t : List Inputs) (d : Nat),
    exec i ⟨.powerOn c n, t, d⟩ = .refused .notReset)

/-- `40_engine_commands.md` R49: NOP leaves the registers; so does any number of `NOP` lines on an idle engine; a `NOP`
line on a busy engine is the SHIFT step. -/
def Obligations.NopHoldsTheRegisters : Prop :=
  (∀ (c : Word) (t : List Inputs) (d : Nat),
    exec .nop ⟨.live c 0, t, d⟩ = .next ⟨.live c 0, t, d⟩) ∧
  (∀ (c : Word) (d : Nat) (dins : List Byte),
    runTrace ⟨.live c 0, [], d⟩ (dins.map (command 0b00#2)) = .next ⟨.live c 0, [], d⟩) ∧
  (∀ (c : Word) (n : Fin 9) (t : List Inputs) (d : Nat) (din : Byte), n ≠ 0 →
    step ⟨.live c n, command 0b00#2 din :: t, d⟩ = exec .shift ⟨.live c n, t, d⟩)

/-- `40_engine_commands.md` R50: INIT loads `0xFFFF` whatever `crc` held; a second one changes nothing; presented while
busy it is ignored and the shift goes on; followed by no DATA it is the empty message. -/
def Obligations.InitStartsAMessage : Prop :=
  (∀ (c : Word) (t : List Inputs) (d : Nat),
    exec .init ⟨.live c 0, t, d⟩ = .next ⟨.live 0xFFFF#16 0, t, d⟩) ∧
  (∀ (c : Word) (t : List Inputs) (d : Nat) (x y : Byte),
    step ⟨.live c 0, command 0b01#2 x :: command 0b01#2 y :: t, d⟩
        = .next ⟨.live 0xFFFF#16 0, command 0b01#2 y :: t, d⟩ ∧
    step ⟨.live 0xFFFF#16 0, command 0b01#2 y :: t, d⟩ = .next ⟨.live 0xFFFF#16 0, t, d⟩) ∧
  (∀ (c : Word) (n : Fin 9) (t : List Inputs) (d : Nat) (x : Byte), n ≠ 0 →
    step ⟨.live c n, command 0b01#2 x :: t, d⟩ = exec .shift ⟨.live c n, t, d⟩) ∧
  compute [] = 0xFFFF#16

/-- `40_engine_commands.md` R51: DATA XORs the byte into the low half, leaves bits 15:8, loads `cnt` with 8 (a zero byte
too), so `busy` reads 1; presented while busy it is ignored. -/
def Obligations.DataTakesInOneByte : Prop :=
  (∀ (c : Word) (b : Byte) (t : List Inputs) (d : Nat),
    exec (.data b) ⟨.live c 0, t, d⟩ = .next ⟨.live (c ^^^ b.setWidth 16) 8, t, d⟩ ∧
    (c ^^^ b.setWidth 16).extractLsb' 8 8 = c.extractLsb' 8 8 ∧
    (c ^^^ b.setWidth 16).extractLsb' 0 8 = c.extractLsb' 0 8 ^^^ b ∧
    (Regs.live (c ^^^ b.setWidth 16) 8).busy = 1#1) ∧
  (∀ (c : Word) (t : List Inputs) (d : Nat),
    exec (.data 0x00#8) ⟨.live c 0, t, d⟩ = .next ⟨.live c 8, t, d⟩) ∧
  (∀ (c : Word) (n : Fin 9) (t : List Inputs) (d : Nat) (b : Byte), n ≠ 0 →
    step ⟨.live c n, command 0b10#2 b :: t, d⟩ = exec .shift ⟨.live c n, t, d⟩)

/-- `40_engine_commands.md` R52: SHIFT, by its pseudocode and bit by bit; `cnt` counts down, and `busy` falls when it
goes from 1 to 0; it is the step at every tick with `busy = 1` and `rst = 0`. -/
def Obligations.ShiftIsOneFeedbackStep : Prop :=
  (∀ (c : Word) (n m : Fin 9) (t : List Inputs) (d : Nat), n.val = m.val + 1 →
    exec .shift ⟨.live c n, t, d⟩
      = .next ⟨.live (if c.getLsbD 0 then (c >>> 1) ^^^ 0xA001#16 else c >>> 1) m, t, d⟩ ∧
    ((Regs.live (shift1 c) m).busy = 0#1 ↔ n = 1)) ∧
  (∀ (c : Word) (i : Nat), i < 16 →
    (shift1 c).getLsbD i =
      if i = 15 then c.getLsbD 0
      else if i = 13 then (c.getLsbD 14 ^^ c.getLsbD 0)
      else if i = 0 then (c.getLsbD 1 ^^ c.getLsbD 0)
      else c.getLsbD (i + 1)) ∧
  (∀ (s : State), s.inputs.rst ≠ 1#1 → s.busy = 1#1 → step s = exec .shift s.advance)

/-- `40_engine_commands.md` R53, `30_encoding.md` R43: the reserved opcode, where it would be accepted, is refused as
`ReservedOp`; while busy or in reset it is as harmless as any other value. -/
def Obligations.ReservedOpcodeIsRefusedWhereAccepted : Prop :=
  (∀ (c : Word) (t : List Inputs) (d : Nat), exec .rsvd ⟨.live c 0, t, d⟩ = .refused .reservedOp) ∧
  (∀ (c : Word) (t : List Inputs) (d : Nat) (x : Byte),
    step ⟨.live c 0, command 0b11#2 x :: t, d⟩ = .refused .reservedOp) ∧
  (∀ (c : Word) (n : Fin 9) (t : List Inputs) (d : Nat) (op : BitVec 2) (x : Byte), n ≠ 0 →
    step ⟨.live c n, command 0b11#2 x :: t, d⟩ = step ⟨.live c n, command op x :: t, d⟩) ∧
  (∀ (r : Regs) (t : List Inputs) (d : Nat) (op : BitVec 2) (x : Byte),
    step ⟨r, ⟨1#1, 0b11#2, x⟩ :: t, d⟩ = step ⟨r, ⟨1#1, op, x⟩ :: t, d⟩)

/-- `40_engine_commands.md` R48: a tick runs the step its selector selects, on the registers before the tick, with the
host moved past the tick; at `rst = 1` the reset step instead. -/
def Obligations.StepRunsTheSelectedInstruction : Prop :=
  (∀ s : State, s.inputs.rst = 1#1 → step s = .next s.advance.resetStep) ∧
  (∀ (s : State) (i : Instr), s.inputs.rst ≠ 1#1 → decode s.selector = i → step s = exec i s.advance) ∧
  (∀ s : State, s.advance.regs = s.regs) ∧
  (∀ (r : Regs) (p : Inputs) (t : List Inputs) (d : Nat),
    State.inputs ⟨r, p :: t, d⟩ = p ∧ State.advance ⟨r, p :: t, d⟩ = ⟨r, t, d⟩ ∧
    State.selector ⟨r, p :: t, d⟩ = r.busy ++ p.op ++ p.din)

/-- `60_exceptions.md` R83: reset, then the shift in progress, then the command selected by `op`. -/
def Obligations.ResetBeatsShiftBeatsCommand : Prop :=
  ∀ s : State, step s =
    if s.inputs.rst = 1#1 then .next s.advance.resetStep
    else if s.busy = 1#1 then exec .shift s.advance
    else if s.inputs.op = 0b00#2 then exec .nop s.advance
    else if s.inputs.op = 0b01#2 then exec .init s.advance
    else if s.inputs.op = 0b10#2 then exec (.data s.inputs.din) s.advance
    else exec .rsvd s.advance

/-- `40_engine_commands.md` R54: while busy, and with `rst = 0`, the step is SHIFT whatever is presented, the reserved
opcode included; what was presented is not stored. -/
def Obligations.BusyEngineIgnoresCommands : Prop :=
  ∀ (c : Word) (n m : Fin 9) (p : Inputs) (t : List Inputs) (d : Nat), n.val = m.val + 1 → p.rst ≠ 1#1 →
    step ⟨.live c n, p :: t, d⟩ = .next ⟨.live (shift1 c) m, t, d⟩

/-- `30_encoding.md` R42: the byte on `din` decides nothing unless the step is DATA; and with `rst = 1` or `busy = 1`
neither `op` nor `din` does (`93_implementation_defined.md` U4). -/
def Obligations.UnexaminedInputsDecideNothing : Prop :=
  ∀ (r : Regs) (p q : Inputs) (t : List Inputs) (d : Nat),
    (p.rst = 1#1 ∧ q.rst = 1#1) ∨
      (p.rst = 0#1 ∧ q.rst = 0#1 ∧ (r.busy = 1#1 ∨ (p.op = q.op ∧ p.op ≠ 0b10#2))) →
    step ⟨r, p :: t, d⟩ = step ⟨r, q :: t, d⟩

/-- `30_encoding.md` R39: every selector selects exactly one row of the opcode map, the row of the step decoded, and the
byte of DATA is bits 7:0. -/
def Obligations.EverySelectorSelectsOneRow : Prop :=
  ∀ S : Selector,
    (opcodeMap.filter fun r => r.selects S).map OpcodeRow.mnemonic = [(decode S).mnemonic] ∧
    ∀ b : Byte, decode S = .data b → b = S.extractLsb' 0 8

/-- `30_encoding.md` R39: a selector decodes to a step if and only if it agrees with the step's encoding on the bits the
row examines (its field included); so the step of an encoding is that step, with every byte of DATA. -/
def Obligations.DecodeAndEncodeAgree : Prop :=
  (∀ (i : Instr) (S : Selector), decode S = i ↔ S &&& i.examined = encode i) ∧
  (∀ i : Instr, decode (encode i) = i)

/-- `95_test_vectors.md` sections 2.1, 2.2 and 2.7: the selectors printed there select the steps printed there. -/
def Obligations.PrintedSelectorsDecode : Prop :=
  decode 0x0A5#11 = .nop ∧ decode 0x177#11 = .init ∧ decode 0x2FF#11 = .data 0xFF#8 ∧
  decode 0x234#11 = .data 0x34#8 ∧ decode 0x603#11 = .shift ∧ decode 0x500#11 = .shift ∧
  decode 0x7FF#11 = .shift ∧ decode 0x300#11 = .rsvd

/-- A meaning applied where its `busy` bit says it is not selected is refused, by a name of the model's own: log entry 5,
the model's choice. No step comes to it (`StepStopsOnlyAsTheSpecSays`). So RSVD has no next state in any state. -/
def Obligations.UnselectedMeaningIsRefused : Prop :=
  (∀ (c : Word) (t : List Inputs) (d : Nat), exec .shift ⟨.live c 0, t, d⟩ = .refused .notSelected) ∧
  (∀ (i : Instr) (c : Word) (n : Fin 9) (t : List Inputs) (d : Nat), n ≠ 0 → i ≠ .shift →
    exec i ⟨.live c n, t, d⟩ = .refused .notSelected) ∧
  (∀ s : State, ∃ r, exec .rsvd s = .refused r)

/-- `60_exceptions.md` R79, R88: a step never faults; it is refused only as `NotReset` or `ReservedOp`, exactly where the
table of R88 says, and so it has a next state everywhere else. -/
def Obligations.StepStopsOnlyAsTheSpecSays : Prop :=
  (∀ (s : State) (f : Fault), step s ≠ .fault f) ∧
  (∀ (s : State) (r : Refusal), step s = .refused r ↔
    s.inputs.rst ≠ 1#1 ∧
      ((r = .notReset ∧ ¬ s.resetDone) ∨
       (r = .reservedOp ∧ s.resetDone ∧ s.busy = 0#1 ∧ s.inputs.op = 0b11#2))) ∧
  (∀ s : State, (s.inputs.rst = 1#1 ∨ (s.resetDone ∧ (s.busy = 1#1 ∨ s.inputs.op ≠ 0b11#2))) →
    ∃ t, step s = .next t)

/-- `10_state.md` R13, `70_reset_and_hazards.md` R99: after any tick the registers come from a reset and `cnt`, as the
4-bit register, is at most 8, whatever it was before the tick. -/
def Obligations.EveryTickLeavesALegalCounter : Prop :=
  ∀ s t : State, step s = .next t → t.resetDone ∧ t.regs.cnt ≤ 8#4

/-- The frame of the four steps that run: the host's side stands; NOP changes nothing; INIT leaves `cnt` at 0; DATA
leaves `crc[15:8]`; SHIFT takes exactly one from `cnt` (`40_engine_commands.md` R49 to R52). -/
def Obligations.StepsChangeOnlyTheirRegisters : Prop :=
  ∀ (i : Instr) (s t : State), exec i s = .next t →
    t.trace = s.trace ∧ t.drawn = s.drawn ∧
    (i = .nop → t = s) ∧
    (i = .init → t.regs.cnt = s.regs.cnt) ∧
    (∀ b, i = .data b → t.regs.crc.extractLsb' 8 8 = s.regs.crc.extractLsb' 8 8) ∧
    (i = .shift → s.regs.cnt.toNat = t.regs.cnt.toNat + 1)

/-- `41_compute.md` R58: bits 15:8 of `absorb(c, b)` are those of `c`, bits 7:0 are `c[7:0] ^ b`. -/
def Obligations.AbsorbTouchesTheLowByteOnly : Prop :=
  ∀ (c : Word) (b : Byte),
    absorb c b = c ^^^ b.setWidth 16 ∧
    (absorb c b).extractLsb' 8 8 = c.extractLsb' 8 8 ∧
    (absorb c b).extractLsb' 0 8 = c.extractLsb' 0 8 ^^^ b

/-- `10_state.md` R15: `busy` is 1 exactly while `cnt` is not 0; it is 0 after reset, and 1 for eight ticks from the tick
after a DATA is accepted. -/
def Obligations.BusyIsOneForEightTicks : Prop :=
  (∀ r : Regs, r.busy = if r.cnt ≠ 0#4 then 1#1 else 0#1) ∧
  State.reset.outputs.busy = 0#1 ∧
  (∀ (c : Word) (d : Nat) (b : Byte) (during : List Inputs), during.length ≤ 8 →
    (∀ p ∈ during, p.rst = 0#1) →
    ∃ t, runTrace ⟨.live c 0, [], d⟩ (command 0b10#2 b :: during) = .next t ∧
      t.outputs.busy = if during.length = 8 then 0#1 else 1#1)

/-- `60_exceptions.md` R87: the shifts owed are done one a tick whatever is presented, and then `busy` is 0: eight after a
DATA, and never a ninth. -/
def Obligations.OwedShiftsRunOut : Prop :=
  (∀ (c : Word) (n : Fin 9) (d : Nat) (during : List Inputs), during.length ≤ n.val →
    (∀ p ∈ during, p.rst = 0#1) →
    ∃ m : Fin 9, m.val = n.val - during.length ∧
      runTrace ⟨.live c n, [], d⟩ during = .next ⟨.live (shiftTimes during.length c) m, [], d⟩) ∧
  (∀ (c : Word) (t : List Inputs) (d : Nat) (b : Byte),
    step ⟨.live c 0, command 0b10#2 b :: t, d⟩ = .next ⟨.live (absorb c b) 8, t, d⟩)

/-- `30_encoding.md` R47: WAIT is at most eight `NOP` ticks, has no effect on `crc` beyond the owed shifts, and leaves the
engine idle. -/
def Obligations.WaitLeavesTheEngineIdle : Prop :=
  ∀ (c : Word) (n : Fin 9) (d : Nat),
    (waitTrace (.live c n)).length ≤ 8 ∧
    runTrace ⟨.live c n, [], d⟩ (waitTrace (.live c n)) = .next ⟨.live (shiftTimes n.val c) 0, [], d⟩

/-- `41_compute.md` R61: FOLD. The nine ticks "`DATA b` accepted, then eight ticks of any command" end idle with
`fold(c, b)`; in between, after `k` of the eight, the accumulator is `shift1` applied `k` times to `absorb(c, b)` and
`busy` is 1. -/
def Obligations.FoldTakesNineTicks : Prop :=
  ∀ (c : Word) (b : Byte) (d : Nat) (during : List Inputs), during.length = 8 →
    (∀ p ∈ during, p.rst = 0#1) →
    runTrace ⟨.live c 0, [], d⟩ (command 0b10#2 b :: during) = .next ⟨.live (fold c b) 0, [], d⟩ ∧
    ∀ k, k < 8 → ∃ n : Fin 9, n.val = 8 - k ∧ (Regs.live (shiftTimes k (absorb c b)) n).busy = 1#1 ∧
      runTrace ⟨.live c 0, [], d⟩ (command 0b10#2 b :: during.take k)
        = .next ⟨.live (shiftTimes k (absorb c b)) n, [], d⟩

/-- `41_compute.md` R62: COMPUTE. From any idle state an INIT, and from any state at all a reset tick, then the FOLD of
each byte with any `NOP` ticks at the idle points, ends idle with `compute(m)`, its split on the result ports. -/
def Obligations.ComputeTraceYieldsTheCheck : Prop :=
  (∀ (c : Word) (d : Nat) (x : Byte) (gs : List Segment) (tail : Nat), (∀ g ∈ gs, g.wellFormed) →
    runTrace ⟨.live c 0, [], d⟩ (command 0b01#2 x :: gs.flatMap Segment.trace ++ nopTrace tail)
      = .next ⟨.live (compute (gs.map Segment.byte)) 0, [], d⟩) ∧
  (∀ (s : State) (op : BitVec 2) (x : Byte) (gs : List Segment) (tail : Nat), (∀ g ∈ gs, g.wellFormed) →
    runTrace s (lineInputs (.reset op x) :: gs.flatMap Segment.trace ++ nopTrace tail)
      = .next ⟨.live (compute (gs.map Segment.byte)) 0, [], s.drawn⟩) ∧
  (∀ (m : Message) (t : List Inputs) (d : Nat),
    State.outputs ⟨.live (compute m) 0, t, d⟩ = ⟨0#1, compute m, (split (compute m)).1, (split (compute m)).2⟩)

/-- The registers after reset are those of a host that has had no byte accepted (`10_state.md` R21). -/
def Obligations.ResetTracksTheEmptyMessage : Prop := Tracks (.idle []) State.reset

/-- Every step keeps the invariant that the registers are those of the bytes the host has had accepted
(`41_compute.md` R67 and its consequence; `40_engine_commands.md` R48 to R54). -/
def Obligations.EveryStepKeepsTrackOfAcceptedBytes : Prop :=
  (∀ (v : HostView) (s t : State), Tracks v s → step s = .next t →
    ∃ v', v.tick s.inputs = some v' ∧ Tracks v' t) ∧
  (∀ (v : HostView) (s : State), Tracks v s → v.tick s.inputs = none → step s = .refused .reservedOp)

/-- `41_compute.md` R67 and `42_result_split.md` R76: from reset, on every trace a host can drive, the engine ends with
the registers of the bytes accepted since the last start step, or is refused as `ReservedOp` where the trace has the
reserved opcode accepted. -/
def Obligations.EveryTraceFromResetIsAccounted : Prop :=
  ∀ t : List Inputs, runTrace State.reset t =
    match HostView.run (.idle []) t with
    | some v => .next ⟨v.regs, [], 0⟩
    | none => .refused .reservedOp

/-- `41_compute.md` R67: streaming; and at an idle tick `crc_q` is `compute` of the bytes accepted since the last INIT or
reset, so a running check may be read and the message continued. -/
def Obligations.RunningCheckIsTheCheckSoFar : Prop :=
  (∀ m1 m2 : Message, compute (m1 ++ m2) = m2.foldl fold (compute m1)) ∧
  (∀ (m : Message) (b : Byte), compute (m ++ [b]) = fold (compute m) b) ∧
  (∀ (t : List Inputs) (m : Message), feeds t m →
    ∃ s, runTrace State.reset t = .next s ∧ s.outputs.busy = 0#1 ∧ s.outputs.crc_q = compute m)

/-- `70_reset_and_hazards.md` R108, R109: a run of `m` under the launch premises ends with `compute(m)` on `crc_q` and its
split on the result ports, whatever `crc` was before the start step. -/
def Obligations.LaunchedRunEndsInTheCheck : Prop :=
  ∀ (s : State) (p : Inputs) (t : List Inputs) (m : Message), startsMessage s p → feeds t m →
    ∃ e, runTrace s (p :: t) = .next e ∧
      e.outputs = ⟨0#1, compute m, (split (compute m)).1, (split (compute m)).2⟩

/-- `41_compute.md` R65, `70_reset_and_hazards.md` R112: two runs that have the same bytes accepted end in the same
registers, whatever came before their start steps and however their ticks are spaced. -/
def Obligations.ResultIgnoresHistoryAndTiming : Prop :=
  ∀ (s s' : State) (p p' : Inputs) (t t' : List Inputs) (m : Message),
    startsMessage s p → feeds t m → startsMessage s' p' → feeds t' m →
    ∃ e e', runTrace s (p :: t) = .next e ∧ runTrace s' (p' :: t') = .next e' ∧ e.regs = e'.regs

/-- `70_reset_and_hazards.md` R98: a reset in the middle of a run discards the message: what follows runs as from the
state after reset, which is also the state after INIT. -/
def Obligations.ResetDiscardsTheMessage : Prop :=
  ∀ (s s' : State) (t u : List Inputs) (op : BitVec 2) (x : Byte), runTrace s t = .next s' →
    runTrace s (t ++ lineInputs (.reset op x) :: u) = runTrace ⟨State.reset.regs, [], s'.drawn⟩ u ∧
    ∀ c, runTrace ⟨.live c 0, [], s'.drawn⟩ (lineInputs .init :: u) = runTrace ⟨State.reset.regs, [], s'.drawn⟩ u

/-- `30_encoding.md` R40, `70_reset_and_hazards.md` R102: a DATA presented early and held is accepted once, at the first
tick with `busy = 0`; presented while busy and withdrawn it leaves no trace. -/
def Obligations.HeldCommandIsAcceptedOnce : Prop :=
  (∀ (c : Word) (n : Fin 9) (d : Nat) (b : Byte),
    runTrace ⟨.live c n, [], d⟩ (heldData (n.val + 1) b)
      = .next ⟨.live (absorb (shiftTimes n.val c) b) 8, [], d⟩) ∧
  (∀ (c : Word) (n : Fin 9) (d : Nat) (b : Byte) (u : List Inputs), n ≠ 0 →
    runTrace ⟨.live c n, [], d⟩ (lineInputs (.data b) :: u)
      = runTrace ⟨.live c n, [], d⟩ (lineInputs .nop :: u))

/-- `70_reset_and_hazards.md` R101: bytes fed with no INIT or reset since the previous message continue that message. -/
def Obligations.BytesWithoutInitContinueTheMessage : Prop :=
  ∀ (m1 m2 : Message) (d : Nat),
    runTrace ⟨.live (compute m1) 0, [], d⟩ (foldsTrace m2) = .next ⟨.live (compute (m1 ++ m2)) 0, [], d⟩

/-- `70_reset_and_hazards.md` R110, R111: a message of `n` bytes back to back takes `1 + 9n` ticks from its INIT, and one
tick before the last the engine is still busy. -/
def Obligations.MessageTakesNineTicksAByte : Prop :=
  ∀ (m : Message) (c : Word) (d : Nat),
    (computeTrace m).length = 1 + 9 * m.length ∧
    runTrace ⟨.live c 0, [], d⟩ (computeTrace m) = .next ⟨.live (compute m) 0, [], d⟩ ∧
    (m ≠ [] → ∃ t, runTrace ⟨.live c 0, [], d⟩ (computeTrace m).dropLast = .next t ∧ t.outputs.busy = 1#1)

/-- `41_compute.md` R64: the empty message's check is the unmodified initial value, on the ports after INIT or reset. -/
def Obligations.EmptyMessageKeepsTheInitialValue : Prop :=
  compute [] = 0xFFFF#16 ∧
  (∀ (c : Word) (t : List Inputs) (d : Nat) (x : Byte),
    ∃ e, step ⟨.live c 0, command 0b01#2 x :: t, d⟩ = .next e ∧
      e.outputs = ⟨0#1, 0xFFFF#16, 0xFF#8, 0xFF#8⟩) ∧
  (∀ (r : Regs) (t : List Inputs) (d : Nat) (op : BitVec 2) (x : Byte),
    ∃ e, step ⟨r, ⟨1#1, op, x⟩ :: t, d⟩ = .next e ∧ e.outputs = ⟨0#1, 0xFFFF#16, 0xFF#8, 0xFF#8⟩)

/-- `95_test_vectors.md` V1, V2, V3, V4 and M8: printed checks. -/
def Obligations.PrintedChecksAreReproduced : Prop :=
  compute [0x01#8, 0x03#8, 0x00#8, 0x00#8, 0x00#8, 0x0A#8] = 0xCDC5#16 ∧
  split 0xCDC5#16 = (0xC5#8, 0xCD#8) ∧ split 0xC5CD#16 = (0xCD#8, 0xC5#8) ∧
  compute [0x01#8] = 0x807E#16 ∧
  compute [0x11#8, 0x03#8, 0x00#8, 0x6B#8, 0x00#8, 0x03#8] = 0x8776#16

/-- `41_compute.md` R69: `shift1` is a bijection with the inverse `unshift1`, so is `c -> fold(c, b)` for each `b`;
`shift1` is linear over XOR and `shift1(0) = 0`. -/
def Obligations.ShiftAndFoldAreBijective : Prop :=
  (∀ c : Word, unshift1 (shift1 c) = c) ∧ (∀ d : Word, shift1 (unshift1 d) = d) ∧
  (∀ b : Byte, Function.Bijective fun c => fold c b) ∧
  (∀ x y : Word, shift1 (x ^^^ y) = shift1 x ^^^ shift1 y) ∧ shift1 0x0000#16 = 0x0000#16

/-- `41_compute.md` R68: `b -> fold(c, b)` is injective; at most one byte appended leaves a check as it was, so at least
255 change it; and the accumulator values that some byte leaves as they are can be numbered one to one by the 256
bytes: there are exactly 256 of them. -/
def Obligations.TrailingByteChangesTheCheck : Prop :=
  (∀ (c : Word) (a b : Byte), fold c a = fold c b → a = b) ∧
  (∀ (m : Message) (a b : Byte), compute (m ++ [a]) = compute m → compute (m ++ [b]) = compute m → a = b) ∧
  (∃ g : Byte → Word, Function.Injective g ∧ ∀ c : Word, (∃ b : Byte, fold c b = c) ↔ ∃ x : Byte, g x = c)

/-- `41_compute.md` R70: the residue law and its converse. -/
def Obligations.ResidueIsZeroExactlyForTheCheckBytes : Prop :=
  ∀ (m : Message) (x y : Byte), compute (m ++ [x, y]) = 0x0000#16 ↔ (x, y) = split (compute m)

/-- `30_encoding.md` R47, CHECK: after the composite, `crc_q` is `0x0000` if and only if the two trailing bytes are the
split of the check of the rest. -/
def Obligations.CheckCompositeAcceptsExactlyTheCheckBytes : Prop :=
  ∀ (m : Message) (x y : Byte) (c : Word) (d : Nat),
    ∃ e, runTrace ⟨.live c 0, [], d⟩ (checkTrace (m ++ [x, y])) = .next e ∧
      (e.outputs.crc_q = 0x0000#16 ↔ (x, y) = split (compute m))

/-- `41_compute.md` R71: the serial form, bit 0 of the byte first. -/
def Obligations.SerialFormEqualsFold : Prop :=
  ∀ (c : Word) (b : Byte), fold c b = serialFold c b

/-- `41_compute.md` R72: the table form. -/
def Obligations.TableFormEqualsFold : Prop :=
  ∀ (c : Word) (b : Byte),
    fold c b = (c >>> 8) ^^^ fold 0x0000#16 ((c ^^^ b.setWidth 16).extractLsb' 0 8)

/-- `42_result_split.md` R74, R77, R78: the result ports are the halves of `crc`, `crc_q` is `crc`, and the halves
recombine; `split` is a bijection. -/
def Obligations.ResultPortsRecombine : Prop :=
  (∀ r : Regs, r.outputs.crc_q = r.crc ∧
    r.outputs.res_lo = r.crc.extractLsb' 0 8 ∧ r.outputs.res_hi = r.crc.extractLsb' 8 8 ∧
    (r.outputs.res_lo, r.outputs.res_hi) = split r.crc ∧
    r.outputs.crc_q = r.outputs.res_hi ++ r.outputs.res_lo) ∧
  (∀ c : Word, c.toNat = 256 * (split c).2.toNat + (split c).1.toNat) ∧
  (∀ lo hi : Byte, split (hi ++ lo) = (lo, hi))

/-- `60_exceptions.md` R80: at a boundary of wider numbers a message is taken over value for value, or refused as
`ByteOutOfRange`; it is never masked. -/
def Obligations.WideMessagesAreRejectedNotMasked : Prop :=
  ∀ m : List Int,
    ((∀ n ∈ m, 0 ≤ n ∧ n ≤ 255) →
      ∃ bs : Message, messageOfInts m = .next bs ∧ bs.map (fun b => (b.toNat : Int)) = m) ∧
    ((∃ n ∈ m, n < 0 ∨ 255 < n) → messageOfInts m = .refused .byteOutOfRange)

/-- Log entry 2, the model's choice: where the trace lists nothing, the tick is that of the free value, whatever it is. -/
def Obligations.UnlistedTickTakesTheFreeInput : Prop :=
  ∀ (r : Regs) (d : Nat),
    step ⟨r, [], d⟩ = step ⟨r, [Config.hostInput d], d + 1⟩

/-- The model's choice, no rule of the spec: a selector placed at the coming tick is the one that runs (log entries 3
and 6); a number with a bit above bit 10 is no selector and is not decoded (log entry 12). -/
def Obligations.PlacedSelectorRuns : Prop :=
  (∀ (s : State) (w : Nat), w < 2 ^ 11 → ∃ i, decodeTableWord 16 w = some i ∧
    decode (BitVec.ofNat 11 w) = i ∧
    step (s.withFetchWord 16 w) = exec i ⟨s.regs.withBusy (Selector.busy (BitVec.ofNat 11 w)), s.trace.tail, s.drawn⟩ ∧
    (∀ r, exec i ⟨s.regs.withBusy (Selector.busy (BitVec.ofNat 11 w)), s.trace.tail, s.drawn⟩ = .refused r → i = .rsvd)) ∧
  (∀ w : Nat, 2 ^ 11 ≤ w → w < 2 ^ 16 → decodeTableWord 16 w = none)
end

