-- ==== Sys2Proof/Laws/Decode.lean ====
section
/-! SUPPORT. The selector's fields are what was put into it, and what the decoder answers on them. -/

namespace Sys2Proof

theorem cmd_getLsbD (p : Inputs) (i : Nat) :
    p.cmd.getLsbD i = if i < 8 then p.din.getLsbD i else p.op.getLsbD (i - 8) :=
  BitVec.getLsbD_append

theorem selector_getLsbD (b : Bit) (p : Inputs) (i : Nat) :
    (selector b p).getLsbD i = if i < 10 then p.cmd.getLsbD i else b.getLsbD (i - 10) :=
  BitVec.getLsbD_append

@[simp] theorem selector_busy (b : Bit) (p : Inputs) : Selector.busy (selector b p) = b := by
  apply BitVec.eq_of_getLsbD_eq
  intro i hi
  rw [Selector.busy, BitVec.getLsbD_extractLsb', selector_getLsbD]
  have h : ¬ 10 + i < 10 := by omega
  simp [hi, h]

@[simp] theorem selector_op (b : Bit) (p : Inputs) : Selector.op (selector b p) = p.op := by
  apply BitVec.eq_of_getLsbD_eq
  intro i hi
  rw [Selector.op, BitVec.getLsbD_extractLsb', selector_getLsbD, cmd_getLsbD]
  have h : 8 + i < 10 := by omega
  simp [hi, h]

@[simp] theorem selector_din (b : Bit) (p : Inputs) : Selector.din (selector b p) = p.din := by
  apply BitVec.eq_of_getLsbD_eq
  intro i hi
  rw [Selector.din, BitVec.getLsbD_extractLsb', selector_getLsbD, cmd_getLsbD]
  have h : 0 + i < 10 := by omega
  have h' : 0 + i < 8 := by omega
  rw [if_pos h, if_pos h', decide_eq_true hi, Bool.true_and, Nat.zero_add]

/-- With `busy = 1` the inputs decide nothing. -/
@[simp] theorem decode_selector_busy (p : Inputs) : decode (selector 1#1 p) = .shift := by
  simp [decode]

/-- With `busy = 0` the opcode decides. -/
theorem decode_selector_idle (p : Inputs) :
    decode (selector 0#1 p) =
      if p.op = 0b00#2 then .nop
      else if p.op = 0b01#2 then .init
      else if p.op = 0b10#2 then .data p.din
      else .rsvd := by
  simp [decode]

/-- A 1-bit value is 0 or 1. -/
theorem bit_cases : ∀ b : Bit, b = 0#1 ∨ b = 1#1 := by decide

end Sys2Proof
end

