-- ==== Sys2Proof/Laws/State.lean ====
section
/-! SUPPORT. One lemma for each field under each update of the state, so that no later proof unfolds an update. -/

namespace Sys2Proof.Machine

@[simp] theorem setRegs_regs (s : State) (r : Regs) : (s.setRegs r).regs = r := rfl
@[simp] theorem setRegs_trace (s : State) (r : Regs) : (s.setRegs r).trace = s.trace := rfl
@[simp] theorem setRegs_drawn (s : State) (r : Regs) : (s.setRegs r).drawn = s.drawn := rfl
@[simp] theorem setRegs_mk (r r' : Regs) (t : List Inputs) (d : Nat) :
    State.setRegs ⟨r, t, d⟩ r' = ⟨r', t, d⟩ := rfl

@[simp] theorem load_regs (s : State) (t : List Inputs) : (s.load t).regs = s.regs := rfl
@[simp] theorem load_trace (s : State) (t : List Inputs) : (s.load t).trace = t := rfl
@[simp] theorem load_drawn (s : State) (t : List Inputs) : (s.load t).drawn = s.drawn := rfl
@[simp] theorem load_mk (r : Regs) (t u : List Inputs) (d : Nat) : State.load ⟨r, t, d⟩ u = ⟨r, u, d⟩ := rfl
theorem load_self (s : State) : s.load s.trace = s := rfl

@[simp] theorem resetStep_eq (s : State) : s.resetStep = s.setRegs (.live initValue 0) := rfl

/-- The host's move leaves the engine's registers. -/
@[simp] theorem advance_regs (s : State) : s.advance.regs = s.regs := by
  unfold State.advance
  split <;> rfl

@[simp] theorem advance_cons (r : Regs) (p : Inputs) (t : List Inputs) (d : Nat) :
    State.advance ⟨r, p :: t, d⟩ = ⟨r, t, d⟩ := rfl
@[simp] theorem advance_nil (r : Regs) (d : Nat) : State.advance ⟨r, [], d⟩ = ⟨r, [], d + 1⟩ := rfl
@[simp] theorem inputs_cons (r : Regs) (p : Inputs) (t : List Inputs) (d : Nat) :
    State.inputs ⟨r, p :: t, d⟩ = p := rfl
@[simp] theorem inputs_nil (r : Regs) (d : Nat) : State.inputs ⟨r, [], d⟩ = Config.hostInput d := rfl

@[simp] theorem present_regs (s : State) (S : Selector) :
    (s.present S).regs = s.regs.withBusy (Selector.busy S) := rfl
@[simp] theorem present_drawn (s : State) (S : Selector) : (s.present S).drawn = s.drawn := rfl
@[simp] theorem present_trace (s : State) (S : Selector) :
    (s.present S).trace = command (Selector.op S) (Selector.din S) :: s.trace.tail := rfl

@[simp] theorem crc_live (c : Word) (n : Fin 9) : (Regs.live c n).crc = c := rfl
@[simp] theorem resetDone_live (c : Word) (n : Fin 9) : (Regs.live c n).resetDone = true := rfl
@[simp] theorem resetDone_powerOn (c : Word) (n : BitVec 4) : (Regs.powerOn c n).resetDone = false := rfl

/-- The 4-bit register `cnt` is 0 exactly where the counter is. -/
@[simp] theorem cnt_live_eq_zero (c : Word) (n : Fin 9) : (Regs.live c n).cnt = 0#4 ↔ n = 0 :=
  (by decide : ∀ k : Fin 9, BitVec.ofNat 4 k.val = 0#4 ↔ k = 0) n

/-- `busy` of registers that come from a reset. -/
@[simp] theorem busy_live (c : Word) (n : Fin 9) : (Regs.live c n).busy = if n = 0 then 0#1 else 1#1 := by
  simp [Regs.busy]

end Sys2Proof.Machine
end

