-- ==== Sys2Proof/Laws/Ops.lean ====
section
/-! SUPPORT. What each shared operation can do, said once: the conditions `atIdle` and `atBusy`, and the one write by
which every step ends. -/

namespace Sys2Proof.Machine

@[simp] theorem atIdle_live_zero (c : Word) (t : List Inputs) (d : Nat)
    (k : Word → Host.Outcome State Fault Refusal) : atIdle ⟨.live c 0, t, d⟩ k = k c := rfl

/-- A step under `atIdle` that has a next state ran on an idle engine after a reset. -/
theorem atIdle_next {s t : State} {k : Word → Host.Outcome State Fault Refusal} (h : atIdle s k = .next t) :
    ∃ c, s.regs = .live c 0 ∧ k c = .next t := by
  unfold atIdle at h
  split at h
  · cases h
  · next c n hr =>
    split at h
    · next hn => exact ⟨c, by rw [hr, hn], h⟩
    · cases h

/-- A step under `atBusy` that has a next state ran on a busy engine after a reset. -/
theorem atBusy_next {s t : State} {k : Word → Fin 9 → Host.Outcome State Fault Refusal}
    (h : atBusy s k = .next t) : ∃ c n, n ≠ 0 ∧ s.regs = .live c n ∧ k c n = .next t := by
  unfold atBusy at h
  split at h
  · cases h
  · next c n hr =>
    split at h
    · cases h
    · next hn => exact ⟨c, n, hn, hr, h⟩

/-- `cntPred` on the values it is called with. -/
theorem cntPred_val {n m : Fin 9} (h : n.val = m.val + 1) : cntPred n = m := by
  apply Fin.ext
  simp [cntPred, h]

/-- Every step of the table that has a next state writes the registers, from live ones to live ones, and nothing
else. -/
theorem exec_next_setRegs {i : Instr} {s t : State} (h : exec i s = .next t) :
    ∃ c n c' n', s.regs = .live c n ∧ t = s.setRegs (.live c' n') := by
  cases i with
  | shift =>
    obtain ⟨c, n, -, hr, hk⟩ := atBusy_next h
    cases hk
    exact ⟨c, n, _, _, hr, rfl⟩
  | nop =>
    obtain ⟨c, hr, hk⟩ := atIdle_next h
    cases hk
    exact ⟨c, 0, _, _, hr, rfl⟩
  | init =>
    obtain ⟨c, hr, hk⟩ := atIdle_next h
    cases hk
    exact ⟨c, 0, _, _, hr, rfl⟩
  | data b =>
    obtain ⟨c, hr, hk⟩ := atIdle_next h
    cases hk
    exact ⟨c, 0, _, _, hr, rfl⟩
  | rsvd =>
    obtain ⟨c, -, hk⟩ := atIdle_next h
    cases hk

/-- Every tick that has a next state moves the host on and writes live registers, and nothing else. -/
theorem step_next_setRegs {s t : State} (h : step s = .next t) :
    ∃ c n, t = s.advance.setRegs (.live c n) := by
  unfold step at h
  split at h
  · cases h
    exact ⟨_, _, rfl⟩
  · obtain ⟨-, -, c, n, -, ht⟩ := exec_next_setRegs h
    exact ⟨c, n, ht⟩

end Sys2Proof.Machine
end

