-- ==== Sys2Proof/Laws/PerInstr.lean ====
section
/-! SUPPORT. Statements for every step of the table, about the step as syntax, one lemma for each constructor. -/

namespace Sys2Proof.Laws.EncodingFitsItsRow

/-- The step's encoding lies in its own row of the opcode map and sets no bit the row leaves unexamined
(`30_encoding.md` R39, R42). -/
def Statement (i : Instr) : Prop :=
  encode i &&& i.examined = encode i ∧
    ∃ r ∈ opcodeMap, r.mnemonic = i.mnemonic ∧ r.selects (encode i) = true

theorem shift : Statement .shift := by
  unfold Statement
  decide

theorem nop : Statement .nop := by
  unfold Statement
  decide

theorem init : Statement .init := by
  unfold Statement
  decide

theorem data (din : Byte) : Statement (.data din) := by
  refine ⟨BitVec.and_allOnes (w := 11), ⟨"DATA", 0x700#11, 0x200#11⟩, by decide, rfl, ?_⟩
  revert din
  decide

theorem rsvd : Statement .rsvd := by
  unfold Statement
  decide

end Sys2Proof.Laws.EncodingFitsItsRow
end

