-- ==== Sys2Proof/Laws/Run.lean ====
section
/-! SUPPORT. Runs of traces, one tick at a time and one after another. -/

namespace Sys2Proof.Machine

@[simp] theorem runTrace_nil (s : State) : runTrace s [] = .next (s.load []) := rfl


/-- One more step of any machine's run, where the step has a next state. -/
theorem run_succ_next {M : Host.Core} {k : Nat} {s s' : M.State} (h : M.step s = .next s') :
    M.run (k + 1) s = M.run k s' := by
  simp only [Host.Core.run, h]

/-- A run of any machine whose first step is refused. -/
theorem run_succ_refused {M : Host.Core} {k : Nat} {s : M.State} {r : M.Refusal} (h : M.step s = .refused r) :
    M.run (k + 1) s = .refused r := by
  simp only [Host.Core.run, h]

/-- A trace's first tick, then the rest of the trace from the state it leaves. -/
theorem runTrace_cons_next {s s' : State} {p : Inputs} {t : List Inputs}
    (h : step (s.load (p :: t)) = .next s') : runTrace s (p :: t) = runTrace s' t := by
  obtain ⟨c, n, rfl⟩ := step_next_setRegs h
  exact run_succ_next (M := Sys2Proof.core) h

/-- A trace whose first tick is refused. -/
theorem runTrace_cons_refused {s : State} {p : Inputs} {t : List Inputs} {r : Refusal}
    (h : step (s.load (p :: t)) = .refused r) : runTrace s (p :: t) = .refused r := by
  exact run_succ_refused (M := Sys2Proof.core) h

/-- A trace's first tick from a state written out. -/
theorem runTrace_mk_next {r : Regs} {u t : List Inputs} {d : Nat} {p : Inputs} {s' : State}
    (h : step ⟨r, p :: t, d⟩ = .next s') : runTrace ⟨r, u, d⟩ (p :: t) = runTrace s' t :=
  runTrace_cons_next (s := ⟨r, u, d⟩) h

/-- A trace from a state written out whose first tick is refused. -/
theorem runTrace_mk_refused {r : Regs} {u t : List Inputs} {d : Nat} {p : Inputs} {e : Refusal}
    (h : step ⟨r, p :: t, d⟩ = .refused e) : runTrace ⟨r, u, d⟩ (p :: t) = .refused e :=
  runTrace_cons_refused (s := ⟨r, u, d⟩) h

/-- A tick reads only the head of the trace: what the host drives later changes nothing but what is left. -/
theorem step_load_cons (s : State) (p : Inputs) (t u : List Inputs) {s' : State}
    (h : step (s.load (p :: t)) = .next s') : step (s.load (p :: u)) = .next (s'.load u) := by
  unfold step at h ⊢
  change (if p.rst = 1#1 then _ else _) = _ at h
  change (if p.rst = 1#1 then _ else _) = _
  split
  · next hp =>
    rw [if_pos hp] at h
    cases h
    rfl
  · next hp =>
    rw [if_neg hp] at h
    change exec (decode (selector s.busy p)) ⟨s.regs, t, s.drawn⟩ = _ at h
    change exec (decode (selector s.busy p)) ⟨s.regs, u, s.drawn⟩ = _
    revert h
    cases s.regs with
    | powerOn c n => intro h; obtain ⟨c', n', _, _, hr, -⟩ := exec_next_setRegs h; cases hr
    | live c n =>
      cases decode (selector s.busy p) <;>
        simp only [exec, execShift, execNop, execInit, execData, execRsvd, atIdle, atBusy] <;>
        split <;> intro h <;> cases h <;> rfl

/-- A run of one trace after another. -/
theorem runTrace_append {s s' : State} {t : List Inputs} (u : List Inputs) (h : runTrace s t = .next s') :
    runTrace s (t ++ u) = runTrace s' u := by
  induction t generalizing s with
  | nil => cases h; rfl
  | cons p t ih =>
    cases hs : step (s.load (p :: t)) with
    | next s1 =>
      rw [runTrace_cons_next hs] at h
      have h1 := step_load_cons s p t (t ++ u) hs
      rw [List.cons_append, runTrace_cons_next h1, ← ih h]
      rfl
    | fault f => cases f
    | refused r => rw [runTrace_cons_refused hs] at h; cases h

end Sys2Proof.Machine
end

