-- ==== Sys2Proof/Tests/Slice0.lean ====
section
/-! SUPPORT. Tests of the model against the numbers the spec prints, and for every statement with hypotheses a concrete
instance that meets them. Expected values come from `95_test_vectors.md`, named in each comment. -/

namespace Sys2Proof.Tests

open Sys2Proof Sys2Proof.Machine

/-- The outcome is the next state `t`. -/
def answers (o : Host.Outcome State Fault Refusal) (t : State) : Bool :=
  match o with
  | .next s => decide (s = t)
  | .fault _ => false
  | .refused _ => false

/-- The outcome is the refusal `r`. -/
def refusesWith (o : Host.Outcome State Fault Refusal) (r : Refusal) : Bool :=
  match o with
  | .next _ => false
  | .fault _ => false
  | .refused q => decide (q = r)

/-- Live registers `(crc, cnt)` and the inputs of one tick. -/
def at1 (c : Word) (n : Fin 9) (rst : Bit) (op : BitVec 2) (din : Byte) : State :=
  { regs := .live c n, trace := [⟨rst, op, din⟩], drawn := 0 }

/-- Live registers `(crc, cnt)` after the tick. -/
def after (c : Word) (n : Fin 9) : State := { regs := .live c n, trace := [], drawn := 0 }

/-! What is ill formed is refused. -/

theorem test_wf_refuses_reserved_step : Instr.wellFormed .rsvd = false ∧ Instr.wellFormed (.data 0xFF#8) = true := by
  decide

theorem test_wf_refuses_second_spelling :
    Inputs.wellSpelled ⟨0#1, 0b00#2, 0xA5#8⟩ = false ∧ Inputs.wellSpelled ⟨0#1, 0b11#2, 0x00#8⟩ = false ∧
    Inputs.wellSpelled ⟨1#1, 0b11#2, 0xA5#8⟩ = true := by
  decide

theorem test_wf_refuses_wide_bytes :
    byteInRange 256 = false ∧ byteInRange (-1) = false ∧ byteInRange 0 = true ∧ byteInRange 255 = true := by
  decide

/-- X5 and X6 of section 2.7. -/
theorem test_wf_refuses_wide_messages :
    messageInRange [1, 0x100] = false ∧ messageInRange [1, -1] = false ∧
    bytesOfInts [1, 0x100] = none ∧ bytesOfInts [1, -1] = none ∧ bytesOfInts [1, 255] = some [0x01#8, 0xFF#8] := by
  decide

theorem test_segment_of_seven_ticks_is_no_fold :
    Segment.wellFormed ⟨0, 0x01#8, nopTrace 7⟩ = false ∧ Segment.wellFormed ⟨2, 0x01#8, nopTrace 8⟩ = true := by
  decide

/-! The encodings of `30_encoding.md` R39, bit 10 first. -/

theorem test_decode_shift : decode 0b1_11_10100101#11 = .shift := by decide
theorem test_decode_nop : decode 0b0_00_10100101#11 = .nop := by decide
theorem test_decode_init : decode 0b0_01_01110111#11 = .init := by decide
theorem test_decode_data : decode 0b0_10_00110100#11 = .data 0b00110100#8 := by decide
theorem test_decode_rsvd : decode 0b0_11_00000000#11 = .rsvd := by decide

/-- The trace lines' command words of section 5. -/
theorem test_command_words :
    (lineInputs (.data 0xC5#8)).cmd = 0x2C5#10 ∧ (lineInputs .init).cmd = 0x100#10 ∧ (lineInputs .nop).cmd = 0x000#10 := by
  decide

theorem test_table_words :
    decodeTableWord 16 0x400 = some .shift ∧ decodeTableWord 16 0x2FF = some (.data 0xFF#8) ∧
    decodeTableWord 16 0x300 = some .rsvd ∧ decodeTableWord 16 0x800 = none := by
  decide

/-! One step each. -/

/-- E2. -/
theorem test_nop_ignores_din : answers (step (at1 0x807E#16 0 0#1 0b00#2 0xA5#8)) (after 0x807E#16 0) = true := by decide
/-- E3. -/
theorem test_init_discards : answers (step (at1 0xCDC5#16 0 0#1 0b01#2 0x00#8)) (after 0xFFFF#16 0) = true := by decide
/-- E8. -/
theorem test_data_clears_low : answers (step (at1 0x1234#16 0 0#1 0b10#2 0x34#8)) (after 0x1200#16 8) = true := by decide
/-- E6. -/
theorem test_data_zero_counts : answers (step (at1 0xFFFF#16 0 0#1 0b10#2 0x00#8)) (after 0xFFFF#16 8) = true := by decide
/-- S19: the reserved opcode is not examined while busy. -/
theorem test_shift_under_reserved : answers (step (at1 0x9FFE#16 6 0#1 0b11#2 0xFF#8)) (after 0x4FFF#16 5) = true := by decide
/-- S16: the last shift, with the feedback taken. -/
theorem test_shift_last : answers (step (at1 0x40FF#16 1 0#1 0b00#2 0x00#8)) (after 0x807E#16 0) = true := by decide
/-- X1. -/
theorem test_reserved_refused : refusesWith (step (at1 0x807E#16 0 0#1 0b11#2 0x00#8)) .reservedOp = true := by decide
/-- E10: reset beats a shift in progress. -/
theorem test_reset_beats_busy : answers (step (at1 0x9FFE#16 6 1#1 0b10#2 0x55#8)) (after 0xFFFF#16 0) = true := by decide
/-- X4: INIT before the first reset. -/
theorem test_init_before_reset :
    refusesWith (step (State.powerOn 0x0000#16 0#4 [lineInputs .init])) .notReset = true := by decide

/-- A1 to A3 and A9 of section 2.3. -/
theorem test_fold_vectors :
    fold 0xFFFF#16 0x00#8 = 0x40BF#16 ∧ fold 0xFFFF#16 0xFF#8 = 0x00FF#16 ∧ fold 0x807E#16 0x03#8 = 0x2140#16 := by decide
/-- S2, S5, S14 of section 2.2. -/
theorem test_shift1_vectors :
    shift1 0x0001#16 = 0xA001#16 ∧ shift1 0xFFFF#16 = 0xDFFE#16 ∧ shift1 0x4003#16 = 0x8000#16 := by decide
/-- L3 and L7 of section 2.6. -/
theorem test_split_order : split 0xC5CD#16 = (0xCD#8, 0xC5#8) ∧ split 0x0100#16 = (0x00#8, 0x01#8) := by decide
/-- F11 of section 2.5. -/
theorem test_table_entry : tableEntry 0x7D#8 = 0x21C0#16 ∧ tableFold 0x807E#16 0x03#8 = 0x2140#16 := by decide
/-- R69: the inverse, on S2. -/
theorem test_unshift1 : unshift1 0xA001#16 = 0x0001#16 ∧ unshift1 0x4000#16 = 0x8000#16 := by decide

/-- Placed as the first instruction after reset, each table word runs. -/
theorem test_placed_words :
    answers (step (State.reset.withFetchWord 16 0x400)) (after 0xDFFE#16 7) = true ∧
    answers (step (State.reset.withFetchWord 16 0x201)) (after 0xFFFE#16 8) = true ∧
    refusesWith (step (State.reset.withFetchWord 16 0x300)) .reservedOp = true := by decide

/-! The hypotheses of the statements can be met: each clause, at the ends of its range. -/

theorem witness_ResetStepFromAnyState :
    (State.powerOn 0x1234#16 15#4 [⟨1#1, 0b11#2, 0x00#8⟩]).inputs.rst = 1#1 ∧
    (at1 0x9FFE#16 6 1#1 0b10#2 0x55#8).inputs.rst = 1#1 := by decide

theorem witness_ResetMayBeHeld :
    [lineInputs (.reset 0b11#2 0x00#8)] ≠ [] ∧ ∀ p ∈ [lineInputs (.reset 0b11#2 0x00#8), lineInputs (.reset 0b00#2 0x00#8)], p.rst = 1#1 := by
  decide

theorem witness_BeforeTheFirstResetOnlyResetRuns :
    (lineInputs .init).rst ≠ 1#1 ∧ (lineInputs (.reset 0b10#2 0x01#8)).rst = 1#1 := by decide

/-- Also of InitStartsAMessage, DataTakesInOneByte, ReservedOpcodeIsRefusedWhereAccepted and HeldCommandIsAcceptedOnce,
whose only hypothesis is a counter that is not 0: its least and its greatest value. -/
theorem witness_NopHoldsTheRegisters : (1 : Fin 9) ≠ 0 ∧ (8 : Fin 9) ≠ 0 := by decide

theorem witness_ShiftIsOneFeedbackStep :
    (1 : Fin 9).val = (0 : Fin 9).val + 1 ∧ (8 : Fin 9).val = (7 : Fin 9).val + 1 ∧ 0 < 16 ∧ 15 < 16 ∧
    (at1 0x40FF#16 1 0#1 0b00#2 0x00#8).inputs.rst ≠ 1#1 ∧ (at1 0x40FF#16 1 0#1 0b00#2 0x00#8).busy = 1#1 := by decide

theorem witness_StepRunsTheSelectedInstruction :
    (at1 0xFFFF#16 0 1#1 0b00#2 0x00#8).inputs.rst = 1#1 ∧
    (at1 0xFFFF#16 0 0#1 0b10#2 0xC5#8).inputs.rst ≠ 1#1 ∧
    decode (at1 0xFFFF#16 0 0#1 0b10#2 0xC5#8).selector = .data 0xC5#8 ∧
    decode (at1 0xFFFF#16 8 0#1 0b10#2 0xC5#8).selector = .shift := by decide

theorem witness_BusyEngineIgnoresCommands :
    (1 : Fin 9).val = (0 : Fin 9).val + 1 ∧ (8 : Fin 9).val = (7 : Fin 9).val + 1 ∧ (command 0b11#2 0xFF#8).rst ≠ 1#1 := by decide

theorem witness_UnexaminedInputsDecideNothing :
    ((⟨1#1, 0b11#2, 0x00#8⟩ : Inputs).rst = 1#1 ∧ (⟨1#1, 0b10#2, 0x55#8⟩ : Inputs).rst = 1#1) ∧
    ((command 0b11#2 0x00#8).rst = 0#1 ∧ (command 0b10#2 0x55#8).rst = 0#1 ∧ (Regs.live 0xFFFF#16 1).busy = 1#1) ∧
    ((command 0b01#2 0x00#8).op = (command 0b01#2 0x77#8).op ∧ (command 0b01#2 0x00#8).op ≠ 0b10#2) := by decide

theorem witness_EverySelectorSelectsOneRow : decode 0x200#11 = .data 0x00#8 ∧ decode 0x2FF#11 = .data 0xFF#8 := by decide

theorem witness_UnselectedMeaningIsRefused : (8 : Fin 9) ≠ 0 ∧ (1 : Fin 9) ≠ 0 ∧ Instr.nop ≠ .shift := by decide

theorem witness_StepStopsOnlyAsTheSpecSays :
    (at1 0x807E#16 0 0#1 0b00#2 0x00#8).resetDone ∧ (at1 0x807E#16 0 0#1 0b00#2 0x00#8).inputs.op ≠ 0b11#2 ∧
    (at1 0x807E#16 1 0#1 0b11#2 0x00#8).resetDone ∧ (at1 0x807E#16 1 0#1 0b11#2 0x00#8).busy = 1#1 ∧
    (at1 0x807E#16 0 1#1 0b11#2 0x00#8).inputs.rst = 1#1 := by decide

/-- A tick from registers no reset has produced, `cnt` at 15. -/
theorem witness_EveryTickLeavesALegalCounter :
    answers (step (State.powerOn 0x1234#16 15#4 [⟨1#1, 0b00#2, 0x00#8⟩])) (after 0xFFFF#16 0) = true := by decide

theorem witness_StepsChangeOnlyTheirRegisters :
    answers (exec .shift (after 0xFFFE#16 8)) (after 0x7FFF#16 7) = true ∧
    answers (exec .nop (after 0x807E#16 0)) (after 0x807E#16 0) = true ∧
    answers (exec .init (after 0x807E#16 0)) (after 0xFFFF#16 0) = true ∧
    answers (exec (.data 0xFF#8) (after 0xFFFF#16 0)) (after 0xFF00#16 8) = true := by decide

/-- Also of OwedShiftsRunOut and FoldTakesNineTicks: no tick, some, and all eight, none of them a reset. -/
theorem witness_BusyIsOneForEightTicks :
    ([] : List Inputs).length ≤ 8 ∧ (nopTrace 8).length = 8 ∧ (∀ p ∈ nopTrace 8, p.rst = 0#1) ∧
    (∀ p ∈ [command 0b11#2 0xFF#8, command 0b10#2 0x03#8], p.rst = 0#1) := by decide

theorem witness_ComputeTraceYieldsTheCheck :
    ∀ g ∈ [(⟨0, 0x01#8, nopTrace 8⟩ : Segment), ⟨3, 0x03#8, heldData 8 0x00#8⟩], g.wellFormed = true := by decide

theorem witness_EveryStepKeepsTrackOfAcceptedBytes :
    Tracks (.busy [] 0x01#8 7) (at1 0xFFFE#16 8 0#1 0b00#2 0x00#8) ∧
    answers (step (at1 0xFFFE#16 8 0#1 0b00#2 0x00#8)) (after 0x7FFF#16 7) = true ∧
    Tracks (.busy [] 0x01#8 0) (at1 0x40FF#16 1 0#1 0b00#2 0x00#8) ∧
    Tracks (.idle [0x01#8]) (at1 0x807E#16 0 0#1 0b11#2 0x00#8) ∧
    HostView.tick (.idle [0x01#8]) (command 0b11#2 0x00#8) = none := by decide

/-- Also of LaunchedRunEndsInTheCheck and ResultIgnoresHistoryAndTiming: a start by INIT, a start by reset from a busy
engine and before any reset, and two spacings of one message. -/
theorem witness_RunningCheckIsTheCheckSoFar :
    feeds (foldTrace 0x01#8) [0x01#8] ∧ feeds (nopTrace 2 ++ lineInputs (.data 0x01#8) :: heldData 8 0x03#8) [0x01#8] ∧
    feeds [] [] ∧
    startsMessage (after 0x1234#16 0) (lineInputs .init) ∧
    startsMessage (after 0x9FFE#16 6) (lineInputs (.reset 0b11#2 0x00#8)) ∧
    startsMessage (State.powerOn 0x0000#16 15#4 []) (lineInputs (.reset 0b00#2 0x00#8)) := by decide

/-- A run that ends in the middle of a fold. -/
theorem witness_ResetDiscardsTheMessage :
    answers (runTrace State.reset [lineInputs (.data 0x01#8), lineInputs .nop]) (after 0x7FFF#16 7) = true := by decide

theorem witness_MessageTakesNineTicksAByte : [0x01#8] ≠ ([] : Message) := by decide

theorem witness_WideMessagesAreRejectedNotMasked :
    (∀ n ∈ [(0 : Int), 255], 0 ≤ n ∧ n ≤ 255) ∧ (∃ n ∈ [(1 : Int), 256], n < 0 ∨ 255 < n) ∧
    (∃ n ∈ [(1 : Int), -1], n < 0 ∨ 255 < n) := by decide

theorem witness_PlacedSelectorRuns :
    0x000 < 2 ^ 11 ∧ 0x7FF < 2 ^ 11 ∧ 2 ^ 11 ≤ 0x800 ∧ 0xFFFF < 2 ^ 16 := by decide

/-- M6 of section 2.4. -/
theorem test_compute_two_bytes : compute [0xFF#8, 0xFF#8] = 0x0000#16 := by
  decide +kernel

/-- F7 and F8: accumulator values, one of them a check, that a byte leaves as they are. -/
theorem witness_TrailingByteChangesTheCheck :
    fold 0x0141#16 0x42#8 = 0x0141#16 ∧
    compute ([0xFF#8, 0xFF#8] ++ [0x00#8]) = compute [0xFF#8, 0xFF#8] := by
  decide +kernel

end Sys2Proof.Tests
end

section
/-! The rules of `10_state.md`: what the registers and `busy` are after reset, after one tick and after a run of SHIFT
steps. -/

namespace Sys2Proof.Machine

/-! The registers and the ports. -/

/-- The 4-bit register `cnt` holds the counter's value (`10_state.md` R13). -/
@[simp] theorem cnt_live_toNat (c : Word) (n : Fin 9) : (Regs.live c n).cnt.toNat = n.val :=
  Nat.mod_eq_of_lt (by omega : n.val < 2 ^ 4)

@[simp] theorem outputs_busy (s : State) : s.outputs.busy = s.regs.busy := rfl

@[simp] theorem reset_regs : State.reset.regs = .live initValue 0 := rfl

@[simp] theorem compute_nil : compute [] = initValue := rfl

/-! The steps of the table where their selector runs them. -/

theorem exec_init_idle (c : Word) (t : List Inputs) (d : Nat) :
    exec .init ⟨.live c 0, t, d⟩ = .next ⟨.live initValue 0, t, d⟩ := rfl

theorem exec_data_idle (c : Word) (b : Byte) (t : List Inputs) (d : Nat) :
    exec (.data b) ⟨.live c 0, t, d⟩ = .next ⟨.live (absorb c b) 8, t, d⟩ := rfl

theorem exec_shift_busy {n m : Fin 9} (h : n.val = m.val + 1) (c : Word) (t : List Inputs) (d : Nat) :
    exec .shift ⟨.live c n, t, d⟩ = .next ⟨.live (shift1 c) m, t, d⟩ := by
  have hn : n ≠ 0 := by omega
  simp [exec, execShift, atBusy, hn, cntPred_val h]

/-! One tick without reset. -/

/-- A listed tick without reset runs the step that `busy` and the command select. -/
theorem step_command {p : Inputs} (hp : p.rst ≠ 1#1) (r : Regs) (t : List Inputs) (d : Nat) :
    step ⟨r, p :: t, d⟩ = exec (decode (selector r.busy p)) ⟨r, t, d⟩ :=
  if_neg hp

/-- On a busy engine the tick is SHIFT, whatever is presented. -/
theorem step_busy {n m : Fin 9} (h : n.val = m.val + 1) {p : Inputs} (hp : p.rst ≠ 1#1) (c : Word)
    (t : List Inputs) (d : Nat) : step ⟨.live c n, p :: t, d⟩ = .next ⟨.live (shift1 c) m, t, d⟩ := by
  have hn : n ≠ 0 := by omega
  rw [step_command hp, busy_live, if_neg hn, decode_selector_busy, exec_shift_busy h]

/-- On an idle engine a DATA command is accepted. -/
theorem step_data_idle (c : Word) (b : Byte) (t : List Inputs) (d : Nat) :
    step ⟨.live c 0, command 0b10#2 b :: t, d⟩ = .next ⟨.live (absorb c b) 8, t, d⟩ := by
  have hi : decode (selector 0#1 (command 0b10#2 b)) = .data b := by simp [decode_selector_idle, command]
  rw [step_command (by decide : (0#1 : Bit) ≠ 1#1), busy_live, if_pos rfl, hi, exec_data_idle]

/-- As many SHIFT steps as there are ticks without reset, where the counter owes at least that many
(`60_exceptions.md` R87). -/
theorem runTrace_shifts {during : List Inputs} (hrst : ∀ p ∈ during, p.rst = 0#1) {n m : Fin 9}
    (h : n.val = m.val + during.length) (c : Word) (u : List Inputs) (d : Nat) :
    runTrace ⟨.live c n, u, d⟩ during = .next ⟨.live (shiftTimes during.length c) m, [], d⟩ := by
  induction during generalizing c n u with
  | nil =>
    obtain rfl : n = m := Fin.ext h
    rfl
  | cons p t ih =>
    rw [List.forall_mem_cons] at hrst
    obtain ⟨hp, ht⟩ := hrst
    rw [List.length_cons] at h
    have hp1 : p.rst ≠ 1#1 := by simp [hp]
    have hn : n.val = (⟨m.val + t.length, by omega⟩ : Fin 9).val + 1 := h
    rw [runTrace_mk_next (step_busy hn hp1 c t d), ih ht rfl]
    rfl

/-! The obligations. -/

/-- Settles O19: a tick that has a next state writes live registers, whose counter is at most 8. -/
theorem everyTickLeavesALegalCounter : Obligations.EveryTickLeavesALegalCounter := by
  unfold Obligations.EveryTickLeavesALegalCounter
  intro s t h
  obtain ⟨c, n, rfl⟩ := step_next_setRegs h
  refine ⟨resetDone_live c n, ?_⟩
  rw [BitVec.le_def, setRegs_regs, cnt_live_toNat]
  exact Nat.le_of_lt_succ n.isLt

/-- Settles O22: DATA loads the counter with 8, and each of the ticks that follow takes one from it. -/
theorem busyIsOneForEightTicks : Obligations.BusyIsOneForEightTicks := by
  unfold Obligations.BusyIsOneForEightTicks
  refine ⟨fun r => by rw [ite_not, Regs.busy], by simp, ?_⟩
  intro c d b during hlen hrst
  have h8 : (8 : Fin 9).val = (⟨8 - during.length, by omega⟩ : Fin 9).val + during.length :=
    (Nat.sub_add_cancel hlen).symm
  refine ⟨_, (runTrace_mk_next (step_data_idle c b during d)).trans (runTrace_shifts hrst h8 _ _ _), ?_⟩
  have hzero : (⟨8 - during.length, by omega⟩ : Fin 9) = 0 ↔ during.length = 8 := by
    rw [Fin.ext_iff, Fin.val_zero]
    omega
  simp only [outputs_busy, busy_live, hzero]

/-- Settles O3: reset, INIT and the empty message all leave `INIT_VALUE` and no shift owed. -/
theorem stateAfterReset : Obligations.StateAfterReset := by
  unfold Obligations.StateAfterReset
  refine ⟨reset_regs, by decide, fun c t d => exec_init_idle c t d, ?_⟩
  rw [reset_regs, compute_nil]

/-- Settles O27: with no byte accepted the host's view calls for `compute []`, which is what reset leaves. -/
theorem resetTracksTheEmptyMessage : Obligations.ResetTracksTheEmptyMessage := by
  unfold Obligations.ResetTracksTheEmptyMessage
  rw [Tracks, HostView.regs, reset_regs, compute_nil]

end Sys2Proof.Machine
end

section
/-! The selector by its fields: what the decoder answers, what the masks of the opcode map examine, and what the encoder
sets (`30_encoding.md` R38, R39). -/

namespace Sys2Proof

/-! A selector is its three fields, `{busy, op, din}`. -/

/-- The fields of a selector put together again are the selector. -/
theorem selector_of_fields (S : Selector) (rst : Bit) :
    selector (Selector.busy S) ⟨rst, Selector.op S, Selector.din S⟩ = S := by
  have hcmd : Inputs.cmd ⟨rst, Selector.op S, Selector.din S⟩ = S.extractLsb' 0 10 :=
    BitVec.extractLsb'_append_extractLsb'_eq_extractLsb' rfl
  rw [selector, hcmd]
  exact (BitVec.extractLsb'_append_extractLsb'_eq_extractLsb' rfl).trans BitVec.extractLsb'_eq_self

theorem selector_eq_iff_fields (S T : Selector) :
    S = T ↔ Selector.busy S = Selector.busy T ∧ Selector.op S = Selector.op T ∧ Selector.din S = Selector.din T := by
  constructor
  · rintro rfl
    exact ⟨rfl, rfl, rfl⟩
  · rintro ⟨hb, ho, hd⟩
    rw [← selector_of_fields S 0#1, hb, ho, hd, selector_of_fields]

/-- Masking a selector masks each of its fields. -/
theorem and_eq_iff_fields (S M E : Selector) :
    S &&& M = E ↔ Selector.busy S &&& Selector.busy M = Selector.busy E ∧
      Selector.op S &&& Selector.op M = Selector.op E ∧ Selector.din S &&& Selector.din M = Selector.din E := by
  rw [selector_eq_iff_fields]
  simp only [Selector.busy, Selector.op, Selector.din, BitVec.extractLsb'_and]

/-! What the decoder answers, by the fields. -/

/-- The field values at which a step is the one selected: first `busy`, then `op`, and for DATA its byte on `din`
(`30_encoding.md` R39). -/
def Instr.Selected (S : Selector) : Instr → Prop
  | .shift => Selector.busy S = 1#1
  | .nop => Selector.busy S = 0#1 ∧ Selector.op S = 0b00#2
  | .init => Selector.busy S = 0#1 ∧ Selector.op S = 0b01#2
  | .data b => Selector.busy S = 0#1 ∧ Selector.op S = 0b10#2 ∧ Selector.din S = b
  | .rsvd => Selector.busy S = 0#1 ∧ Selector.op S = 0b11#2

/-- The step decoded is one the fields select. -/
theorem selected_decode (S : Selector) : (decode S).Selected S := by
  have hop : ∀ o : BitVec 2, o = 0b00#2 ∨ o = 0b01#2 ∨ o = 0b10#2 ∨ o = 0b11#2 := by decide
  rcases bit_cases (Selector.busy S) with hb | hb
  · rcases hop (Selector.op S) with ho | ho | ho | ho <;> simp [decode, Instr.Selected, hb, ho]
  · simp [decode, Instr.Selected, hb]

theorem decode_eq_of_selected {i : Instr} {S : Selector} (h : i.Selected S) : decode S = i := by
  cases i with
  | shift => exact if_pos h
  | nop | init | rsvd =>
    obtain ⟨hb, ho⟩ := h
    simp [decode, hb, ho]
  | data b =>
    obtain ⟨hb, ho, rfl⟩ := h
    simp [decode, hb, ho]

/-- The decoder answers a step exactly where the step is selected. -/
theorem decode_eq_iff_selected (i : Instr) (S : Selector) : decode S = i ↔ i.Selected S :=
  ⟨fun h => h ▸ selected_decode S, decode_eq_of_selected⟩

/-! What the masks examine, by the fields. -/

/-- The mask of SHIFT's row examines `busy` alone. -/
theorem and_shiftMask_iff (S : Selector) : S &&& 0x400#11 = 0x400#11 ↔ Selector.busy S = 1#1 := by
  have hb : Selector.busy 0x400#11 = BitVec.allOnes 1 := by decide
  have ho : Selector.op 0x400#11 = 0#2 := by decide
  have hd : Selector.din 0x400#11 = 0#8 := by decide
  rw [and_eq_iff_fields, hb, ho, hd, BitVec.and_allOnes]
  simp

/-- The mask of the other rows examines `busy` and `op`. -/
theorem and_commandMask_iff (S : Selector) (b : Bit) (o : BitVec 2) :
    S &&& 0x700#11 = selector b ⟨0#1, o, 0#8⟩ ↔ Selector.busy S = b ∧ Selector.op S = o := by
  have hb : Selector.busy 0x700#11 = BitVec.allOnes 1 := by decide
  have ho : Selector.op 0x700#11 = BitVec.allOnes 2 := by decide
  have hd : Selector.din 0x700#11 = 0#8 := by decide
  rw [and_eq_iff_fields, hb, ho, hd, BitVec.and_allOnes, BitVec.and_allOnes]
  simp

theorem encode_data_eq_selector (b : Byte) : encode (.data b) = selector 0#1 ⟨0#1, 0b10#2, b⟩ := by
  revert b
  decide

/-- A selector agrees with a step's encoding on the bits the row examines exactly where the step is selected. -/
theorem and_examined_eq_encode_iff (i : Instr) (S : Selector) :
    S &&& i.examined = encode i ↔ i.Selected S := by
  cases i with
  | shift => exact and_shiftMask_iff S
  | nop => exact and_commandMask_iff S 0#1 0b00#2
  | init => exact and_commandMask_iff S 0#1 0b01#2
  | rsvd => exact and_commandMask_iff S 0#1 0b11#2
  | data b =>
    have hall : S &&& (Instr.data b).examined = S := BitVec.and_allOnes (w := 11)
    rw [hall, encode_data_eq_selector, selector_eq_iff_fields]
    simp [Instr.Selected]

/-- The examined bits of an encoding are all of it. -/
theorem encode_and_examined (i : Instr) : encode i &&& i.examined = encode i := by
  cases i with
  | shift => exact Laws.EncodingFitsItsRow.shift.1
  | nop => exact Laws.EncodingFitsItsRow.nop.1
  | init => exact Laws.EncodingFitsItsRow.init.1
  | data b => exact (Laws.EncodingFitsItsRow.data b).1
  | rsvd => exact Laws.EncodingFitsItsRow.rsvd.1

/-- A row of the opcode map selects the selectors whose decoded step has its mnemonic. -/
theorem selects_iff_mnemonic_decode {r : OpcodeRow} (hr : r ∈ opcodeMap) (S : Selector) :
    r.selects S = true ↔ r.mnemonic = (decode S).mnemonic := by
  have hsel := selected_decode S
  have hmask := and_commandMask_iff S 0#1
  simp only [opcodeMap, List.mem_cons, List.not_mem_nil, or_false] at hr
  rcases hr with rfl | rfl | rfl | rfl | rfl
  on_goal 1 => refine beq_iff_eq.trans ((and_shiftMask_iff S).trans ?_)
  on_goal 2 => refine beq_iff_eq.trans ((hmask 0b00#2).trans ?_)
  on_goal 3 => refine beq_iff_eq.trans ((hmask 0b01#2).trans ?_)
  on_goal 4 => refine beq_iff_eq.trans ((hmask 0b10#2).trans ?_)
  on_goal 5 => refine beq_iff_eq.trans ((hmask 0b11#2).trans ?_)
  all_goals
    generalize decode S = i at hsel ⊢
    cases i <;> simp_all [Instr.Selected, Instr.mnemonic]

end Sys2Proof
end

section
/-! Single ticks, the shifts owed, and the composites FOLD and COMPUTE (`30_encoding.md` R40, R47). -/

namespace Sys2Proof.Machine

/-! One tick. -/

/-- A listed tick of reset, whatever else is presented (`70_reset_and_hazards.md` R96). -/
theorem step_reset {p : Inputs} (hp : p.rst = 1#1) (r : Regs) (t : List Inputs) (d : Nat) :
    step ⟨r, p :: t, d⟩ = .next ⟨.live initValue 0, t, d⟩ :=
  if_pos hp

/-- On an idle engine INIT is accepted. -/
theorem step_init_idle (c : Word) (x : Byte) (t : List Inputs) (d : Nat) :
    step ⟨.live c 0, command 0b01#2 x :: t, d⟩ = .next ⟨.live initValue 0, t, d⟩ := by
  have hi : decode (selector 0#1 (command 0b01#2 x)) = .init := by simp [decode_selector_idle, command]
  rw [step_command (by decide : (0#1 : Bit) ≠ 1#1), busy_live, if_pos rfl, hi, exec_init_idle]

/-- A command presented at every tick of a trace resets at none of them. -/
theorem rst_of_mem_replicate {p : Inputs} (hp : p.rst = 0#1) (k : Nat) : ∀ q ∈ List.replicate k p, q.rst = 0#1 := by
  intro q hq
  rwa [List.eq_of_mem_replicate hq]

theorem nopTrace_rst (k : Nat) : ∀ p ∈ nopTrace k, p.rst = 0#1 := rst_of_mem_replicate rfl k

theorem heldData_rst (k : Nat) (b : Byte) : ∀ p ∈ heldData k b, p.rst = 0#1 := rst_of_mem_replicate rfl k

/-- The owed shifts are done when as many ticks without reset have passed, and the engine is idle. -/
theorem runTrace_allShifts {during : List Inputs} (hrst : ∀ p ∈ during, p.rst = 0#1) {n : Fin 9}
    (h : n.val = during.length) (c : Word) (u : List Inputs) (d : Nat) :
    runTrace ⟨.live c n, u, d⟩ during = .next ⟨.live (shiftTimes n.val c) 0, [], d⟩ := by
  rw [h]
  exact runTrace_shifts hrst (by rw [h, Fin.val_zero, Nat.zero_add]) c u d

/-- On a busy engine a tick without reset is one owed shift, whatever it presents (`40_engine_commands.md` R54). -/
theorem runTrace_cons_busy {n : Fin 9} (hn : n ≠ 0) {p : Inputs} (hp : p.rst ≠ 1#1) (c : Word)
    (t u : List Inputs) (d : Nat) :
    runTrace ⟨.live c n, t, d⟩ (p :: u) = runTrace ⟨.live (shift1 c) (cntPred n), u, d⟩ u :=
  runTrace_mk_next (step_busy (Nat.succ_pred (Fin.val_ne_zero_iff.mpr hn)).symm hp c u d)

/-! The composites. -/

theorem runTrace_foldTrace (c : Word) (b : Byte) (u : List Inputs) (d : Nat) :
    runTrace ⟨.live c 0, u, d⟩ (foldTrace b) = .next ⟨.live (fold c b) 0, [], d⟩ :=
  (runTrace_mk_next (step_data_idle c b (nopTrace 8) d)).trans (runTrace_allShifts (nopTrace_rst 8) rfl _ _ _)

theorem runTrace_foldsTrace (m : Message) (c : Word) (d : Nat) :
    runTrace ⟨.live c 0, [], d⟩ (foldsTrace m) = .next ⟨.live (foldMessage c m) 0, [], d⟩ := by
  induction m generalizing c with
  | nil => rfl
  | cons b m ih =>
    calc runTrace ⟨.live c 0, [], d⟩ (foldTrace b ++ foldsTrace m)
        = runTrace ⟨.live (fold c b) 0, [], d⟩ (foldsTrace m) := runTrace_append _ (runTrace_foldTrace c b [] d)
      _ = .next ⟨.live (foldMessage c (b :: m)) 0, [], d⟩ := ih (fold c b)

theorem runTrace_computeTrace (m : Message) (c : Word) (d : Nat) :
    runTrace ⟨.live c 0, [], d⟩ (computeTrace m) = .next ⟨.live (compute m) 0, [], d⟩ := by
  have h := runTrace_mk_next (u := []) (step_init_idle c 0x00#8 (foldsTrace m) d)
  exact h.trans (runTrace_foldsTrace m initValue d)

end Sys2Proof.Machine
end

section
/-! The residue of a frame (`41_compute.md` R70): `shift1` is injective, and eight steps that feed nothing back move a
byte from the high half to the low half. -/

namespace Sys2Proof.Machine

/-- `shift1` bit by bit: the bit to the left, and the polynomial where bit 0 is fed back. -/
theorem shift1_getLsbD (c : Word) (i : Nat) :
    (shift1 c).getLsbD i = (c.getLsbD (i + 1) ^^ (c.getLsbD 0 && poly.getLsbD i)) := by
  unfold shift1
  cases c.getLsbD 0 <;> simp [Nat.add_comm]

/-- The bit fed back can be read in bit 15 of the result, so no two words shift to the same one. -/
theorem shift1_injective : Function.Injective shift1 := by
  intro c d h
  have hbit (i : Nat) := congrArg (BitVec.getLsbD · i) h
  simp only [shift1_getLsbD] at hbit
  have h0 : c.getLsbD 0 = d.getLsbD 0 := by simpa [poly] using hbit 15
  apply BitVec.eq_of_getLsbD_eq
  intro i hi
  cases i with
  | zero => exact h0
  | succ i => exact Bool.xor_left_inj.mp (h0 ▸ hbit i)

theorem shiftTimes_injective (k : Nat) : Function.Injective (shiftTimes k) := by
  induction k with
  | zero => exact fun _ _ h => h
  | succ k ih => exact ih.comp shift1_injective

/-- Steps that shift out only zeros feed nothing back. -/
theorem shiftTimes_eq_ushiftRight {k : Nat} {c : Word} (h : ∀ i < k, c.getLsbD i = false) :
    shiftTimes k c = c >>> k := by
  induction k generalizing c with
  | zero => simp [shiftTimes]
  | succ k ih =>
    have h1 : shift1 c = c >>> 1 := if_neg (Bool.eq_false_iff.mp (h 0 k.succ_pos))
    have hk : ∀ i < k, (c >>> 1).getLsbD i = false := fun i hi => by
      rw [BitVec.getLsbD_ushiftRight]
      exact h (1 + i) (by omega)
    rw [shiftTimes, h1, ih hk, ← BitVec.shiftRight_add, Nat.add_comm]

/-- The pair of check bytes, low byte first, is the split of one word. -/
theorem eq_split_iff (x y : Byte) (c : Word) : (x, y) = split c ↔ c = y ++ x := by
  rw [split, Prod.mk.injEq]
  constructor
  · rintro ⟨rfl, rfl⟩
    exact (BitVec.extractLsb'_append_extractLsb' (w := 8) (len := 8)).symm
  · rintro rfl
    exact ⟨BitVec.extractLsb'_append_eq_right.symm, BitVec.extractLsb'_append_eq_left.symm⟩

theorem zext16_eq_append (x : Byte) : zext16 x = 0#8 ++ x := BitVec.setWidth_eq_append (by decide)

theorem xor_zext16 (y x : Byte) : (y ++ 0#8 : Word) ^^^ zext16 x = y ++ x := by
  rw [zext16_eq_append]
  exact BitVec.xor_append.trans (by rw [BitVec.xor_zero, BitVec.zero_xor])

theorem absorb_eq_iff (c d : Word) (b : Byte) : absorb c b = d ↔ c = d ^^^ zext16 b := by
  rw [absorb, ← BitVec.xor_left_inj (zext16 b), BitVec.xor_assoc, BitVec.xor_self, BitVec.xor_zero]

/-- Eight steps move a byte from the high half, over a zero low half, to the low half. -/
theorem shiftTimes_highByte (y : Byte) : shiftTimes 8 (y ++ 0#8) = zext16 y := by
  have hlow : ∀ i < 8, (y ++ 0#8 : Word).getLsbD i = false := fun i hi => by
    rw [BitVec.getLsbD_append, if_pos hi, BitVec.getLsbD_zero]
  rw [shiftTimes_eq_ushiftRight hlow]
  apply BitVec.eq_of_getLsbD_eq
  intro i hi
  rw [BitVec.getLsbD_ushiftRight, BitVec.getLsbD_append, if_neg (by omega), Nat.add_sub_cancel_left, zext16,
    BitVec.getLsbD_setWidth, decide_eq_true hi, Bool.true_and]

theorem fold_eq_zero_iff (c : Word) (b : Byte) : fold c b = 0x0000#16 ↔ c = zext16 b := by
  have h0 : shiftTimes 8 0x0000#16 = 0x0000#16 := by decide
  calc fold c b = 0x0000#16 ↔ shiftTimes 8 (absorb c b) = shiftTimes 8 0x0000#16 := by rw [h0]; rfl
    _ ↔ absorb c b = 0#16 := (shiftTimes_injective 8).eq_iff
    _ ↔ c = zext16 b := BitVec.xor_eq_zero_iff

theorem fold_eq_zext16_iff (c : Word) (x y : Byte) : fold c x = zext16 y ↔ c = y ++ x := by
  calc fold c x = zext16 y ↔ shiftTimes 8 (absorb c x) = shiftTimes 8 (y ++ 0#8) := by
        rw [shiftTimes_highByte]; rfl
    _ ↔ absorb c x = y ++ 0#8 := (shiftTimes_injective 8).eq_iff
    _ ↔ c = y ++ x := by rw [absorb_eq_iff, xor_zext16]

/-- The residue law and its converse. -/
theorem compute_append_eq_zero_iff (m : Message) (x y : Byte) :
    compute (m ++ [x, y]) = 0x0000#16 ↔ (x, y) = split (compute m) := by
  have hc : compute (m ++ [x, y]) = fold (fold (compute m) x) y := by
    simp [compute, foldMessage]
  rw [hc, fold_eq_zero_iff, fold_eq_zext16_iff, eq_split_iff]

end Sys2Proof.Machine
end

section
/-! Placing a selector (log entries 3, 6 and 12). -/

namespace Sys2Proof.Machine

/-- Registers made busy or idle are live, with a counter of 0 where `busy` is to be 0. -/
theorem exists_withBusy_eq_live (b : Bit) (r : Regs) : ∃ c n, r.withBusy b = .live c n ∧ (n = 0 ↔ b ≠ 1#1) := by
  cases r with
  | powerOn c _ => exact ⟨c, _, rfl, by by_cases hb : b = 1#1 <;> simp [hb]⟩
  | live c n => exact ⟨c, _, rfl, by by_cases hb : b = 1#1 <;> by_cases hn : n = 0 <;> simp [hb, hn]⟩

@[simp] theorem withBusy_busy (b : Bit) (r : Regs) : (r.withBusy b).busy = b := by
  obtain ⟨c, n, hr, hn⟩ := exists_withBusy_eq_live b r
  rw [hr, busy_live]
  rcases bit_cases b with rfl | rfl <;> simp [hn]

/-- A placed selector is the selector of the coming tick. -/
theorem step_present (s : State) (S : Selector) :
    step (s.present S) = exec (decode S) ⟨s.regs.withBusy (Selector.busy S), s.trace.tail, s.drawn⟩ := by
  have hS : selector (Selector.busy S) (command (Selector.op S) (Selector.din S)) = S := selector_of_fields S 0#1
  have h := step_command (by decide : (0#1 : Bit) ≠ 1#1) (p := command (Selector.op S) (Selector.din S))
    (s.regs.withBusy (Selector.busy S)) s.trace.tail s.drawn
  rwa [withBusy_busy, hS] at h

/-- Of the steps, run where their `busy` selects them, only RSVD is refused. -/
theorem eq_rsvd_of_exec_refused {i : Instr} {c : Word} {n : Fin 9} {t : List Inputs} {d : Nat} {e : Refusal}
    (hn : n = 0 ↔ i ≠ .shift) (h : exec i ⟨.live c n, t, d⟩ = .refused e) : i = .rsvd := by
  cases i with
  | shift => simp [exec, execShift, atBusy, hn] at h
  | nop | init | data b =>
    obtain rfl : n = 0 := hn.mpr nofun
    cases h
  | rsvd => rfl

/-- A number read as a table word of 16 bits. -/
theorem decodeTableWord_of_lt {w : Nat} (hw : w < 2 ^ 11) :
    decodeTableWord 16 w = some (decode (BitVec.ofNat 11 w)) := by
  have h16 : w % 2 ^ 16 = w := Nat.mod_eq_of_lt (by omega)
  rw [decodeTableWord, decodeNumber, h16, if_pos hw]

theorem decodeTableWord_of_le {w : Nat} (hw : 2 ^ 11 ≤ w) (hw' : w < 2 ^ 16) : decodeTableWord 16 w = none := by
  have h16 : w % 2 ^ 16 = w := Nat.mod_eq_of_lt hw'
  rw [decodeTableWord, decodeNumber, h16, if_neg (Nat.not_lt.mpr hw)]

theorem withFetchWord_of_lt {w : Nat} (hw : w < 2 ^ 11) (s : State) :
    s.withFetchWord 16 w = s.present (BitVec.ofNat 11 w) := by
  rw [State.withFetchWord, Nat.mod_eq_of_lt (by omega : w < 2 ^ 16)]

end Sys2Proof.Machine
end

section
/-! The obligations of `30_encoding.md`. -/

namespace Sys2Proof.Machine

/-- Settles O15: both sides say that the step is the selected one, and an encoding agrees with itself. -/
theorem decodeAndEncodeAgree : Obligations.DecodeAndEncodeAgree := by
  unfold Obligations.DecodeAndEncodeAgree
  have hagree (i : Instr) (S : Selector) : decode S = i ↔ S &&& i.examined = encode i :=
    (decode_eq_iff_selected i S).trans (and_examined_eq_encode_iff i S).symm
  exact ⟨hagree, fun i => (hagree i (encode i)).mpr (encode_and_examined i)⟩

/-- Settles O13: the reset tick reads no command, SHIFT none either, and only DATA reads `din`. -/
theorem unexaminedInputsDecideNothing : Obligations.UnexaminedInputsDecideNothing := by
  unfold Obligations.UnexaminedInputsDecideNothing
  rintro r p q t d (⟨hp, hq⟩ | ⟨hp, hq, hpq⟩)
  · rw [step_reset hp, step_reset hq]
  · have hdec : decode (selector r.busy p) = decode (selector r.busy q) := by
      rcases bit_cases r.busy with hb | hb
      · obtain ⟨hop, hdata⟩ := hpq.resolve_left (by simp [hb])
        rw [hb, decode_selector_idle, decode_selector_idle, ← hop, if_neg hdata, if_neg hdata]
      · rw [hb, decode_selector_busy, decode_selector_busy]
    rw [step_command (by simp [hp]), step_command (by simp [hq]), hdec]

/-- Settles O14: a row selects `S` exactly where it has the decoded mnemonic, and each mnemonic has one row. -/
theorem everySelectorSelectsOneRow : Obligations.EverySelectorSelectsOneRow := by
  unfold Obligations.EverySelectorSelectsOneRow
  intro S
  constructor
  · have hrow : opcodeMap.filter (fun r => r.selects S)
        = opcodeMap.filter (fun r => r.mnemonic == (decode S).mnemonic) :=
      List.filter_congr fun r hr => by rw [Bool.eq_iff_iff, beq_iff_eq, selects_iff_mnemonic_decode hr]
    rw [hrow]
    cases decode S <;> rfl
  · intro b h
    obtain ⟨-, -, hd⟩ := (decode_eq_iff_selected _ _).mp h
    exact hd.symm

/-- Settles O24: WAIT presents one `NOP` for each owed shift. -/
theorem waitLeavesTheEngineIdle : Obligations.WaitLeavesTheEngineIdle := by
  unfold Obligations.WaitLeavesTheEngineIdle
  intro c n d
  have hlen : (waitTrace (.live c n)).length = n.val := by
    rw [waitTrace, nopTrace, List.length_replicate, cnt_live_toNat]
  exact ⟨by omega, runTrace_allShifts (nopTrace_rst _) hlen.symm c [] d⟩

/-- Settles O34: the first `n` ticks of a held DATA are the owed shifts, and the next one is idle. -/
theorem heldCommandIsAcceptedOnce : Obligations.HeldCommandIsAcceptedOnce := by
  unfold Obligations.HeldCommandIsAcceptedOnce
  constructor
  · intro c n d b
    have hheld : heldData (n.val + 1) b = heldData n.val b ++ [lineInputs (.data b)] := List.replicate_succ'
    have hlen : n.val = (heldData n.val b).length := List.length_replicate.symm
    rw [hheld, runTrace_append _ (runTrace_allShifts (heldData_rst n.val b) hlen c [] d)]
    exact runTrace_mk_next (step_data_idle (shiftTimes n.val c) b [] d)
  · intro c n d b u hn
    rw [runTrace_cons_busy hn (nofun : (0#1 : Bit) ≠ 1#1), runTrace_cons_busy hn (nofun : (0#1 : Bit) ≠ 1#1)]

/-- Settles O42: CHECK is COMPUTE of the frame, whose check is the residue of the frame's last two bytes. -/
theorem checkCompositeAcceptsExactlyTheCheckBytes : Obligations.CheckCompositeAcceptsExactlyTheCheckBytes := by
  unfold Obligations.CheckCompositeAcceptsExactlyTheCheckBytes
  intro m x y c d
  exact ⟨_, runTrace_computeTrace (m ++ [x, y]) c d, compute_append_eq_zero_iff m x y⟩

/-- Settles O48: a selector placed is the one decoded, at its own `busy`, and a number above bit 10 is none. -/
theorem placedSelectorRuns : Obligations.PlacedSelectorRuns := by
  unfold Obligations.PlacedSelectorRuns
  refine ⟨fun s w hw => ⟨_, decodeTableWord_of_lt hw, rfl, ?_, fun e he => ?_⟩, fun w => decodeTableWord_of_le⟩
  · rw [withFetchWord_of_lt hw, step_present]
  · obtain ⟨c, n, hr, hn⟩ := exists_withBusy_eq_live (Selector.busy (BitVec.ofNat 11 w)) s.regs
    rw [hr] at he
    exact eq_rsvd_of_exec_refused (hn.trans (not_congr (decode_eq_iff_selected .shift _).symm)) he

end Sys2Proof.Machine
end

section
/-! The steps of the table at one tick: which step a command selects on a busy and on an idle engine, what each step can
do, and the bits SHIFT and DATA move (`40_engine_commands.md` R48 to R54). -/

namespace Sys2Proof.Machine

/-! Which step runs. -/

/-- The selector's fields in order, `{busy, op, din}` (`30_encoding.md` R38). -/
theorem selector_eq_append (b : Bit) (p : Inputs) : selector b p = b ++ p.op ++ p.din := by
  rw [selector, Inputs.cmd, BitVec.append_assoc, BitVec.cast_eq]

/-- With `busy = 1` and no reset the tick is SHIFT, on live registers and on any others. -/
theorem step_eq_exec_shift {s : State} (hrst : s.inputs.rst ≠ 1#1) (hbusy : s.busy = 1#1) :
    step s = exec .shift s.advance := by
  rw [step, if_neg hrst, State.selector, hbusy, decode_selector_busy]

/-- A command presented to a busy engine is not examined. -/
theorem step_command_busy (c : Word) {n : Fin 9} (hn : n ≠ 0) (op : BitVec 2) (x : Byte) (t : List Inputs) (d : Nat) :
    step ⟨.live c n, command op x :: t, d⟩ = exec .shift ⟨.live c n, t, d⟩ :=
  step_eq_exec_shift (nofun : (0#1 : Bit) ≠ 1#1) ((busy_live c n).trans (if_neg hn))

/-- A command presented to an idle engine is the one decoded. -/
theorem step_command_idle (c : Word) (op : BitVec 2) (x : Byte) (t : List Inputs) (d : Nat) :
    step ⟨.live c 0, command op x :: t, d⟩ = exec (decode (selector 0#1 (command op x))) ⟨.live c 0, t, d⟩ :=
  step_command (nofun : (0#1 : Bit) ≠ 1#1) (.live c 0) t d

theorem exec_nop_idle (c : Word) (t : List Inputs) (d : Nat) :
    exec .nop ⟨.live c 0, t, d⟩ = .next ⟨.live c 0, t, d⟩ := rfl

theorem exec_rsvd_idle (c : Word) (t : List Inputs) (d : Nat) :
    exec .rsvd ⟨.live c 0, t, d⟩ = .refused .reservedOp := rfl

theorem step_nop_idle (c : Word) (x : Byte) (t : List Inputs) (d : Nat) :
    step ⟨.live c 0, command 0b00#2 x :: t, d⟩ = .next ⟨.live c 0, t, d⟩ := by
  have hi : decode (selector 0#1 (command 0b00#2 x)) = .nop := by simp [decode_selector_idle, command]
  rw [step_command_idle, hi, exec_nop_idle]

theorem step_rsvd_idle (c : Word) (x : Byte) (t : List Inputs) (d : Nat) :
    step ⟨.live c 0, command 0b11#2 x :: t, d⟩ = .refused .reservedOp := by
  have hi : decode (selector 0#1 (command 0b11#2 x)) = .rsvd := by simp [decode_selector_idle, command]
  rw [step_command_idle, hi, exec_rsvd_idle]

/-- On an idle engine `NOP` lines leave the registers, whatever stands on `din`. -/
theorem runTrace_nops_idle (c : Word) (dins : List Byte) (u : List Inputs) (d : Nat) :
    runTrace ⟨.live c 0, u, d⟩ (dins.map (command 0b00#2)) = .next ⟨.live c 0, [], d⟩ := by
  induction dins generalizing u with
  | nil => rfl
  | cons x dins ih => exact (runTrace_mk_next (step_nop_idle c x _ d)).trans (ih _)

/-! What each step can do. -/

theorem setRegs_self {s : State} {r : Regs} (h : s.regs = r) : s.setRegs r = s := by
  subst h
  rfl

/-- A step that has a next state is one of four, each with its condition on the registers and its write to them. -/
theorem exec_next_cases {i : Instr} {s t : State} (h : exec i s = .next t) : ∃ c,
    (i = .shift ∧ ∃ n m : Fin 9, n.val = m.val + 1 ∧ s.regs = .live c n ∧ t = s.setRegs (.live (shift1 c) m)) ∨
    (i = .nop ∧ s.regs = .live c 0 ∧ t = s) ∨
    (i = .init ∧ s.regs = .live c 0 ∧ t = s.setRegs (.live initValue 0)) ∨
    (∃ b, i = .data b ∧ s.regs = .live c 0 ∧ t = s.setRegs (.live (absorb c b) 8)) := by
  cases i with
  | shift =>
    obtain ⟨c, n, hn, hr, hk⟩ := atBusy_next h
    cases hk
    exact ⟨c, .inl ⟨rfl, n, cntPred n, (Nat.succ_pred (Fin.val_ne_zero_iff.mpr hn)).symm, hr, rfl⟩⟩
  | nop =>
    obtain ⟨c, hr, hk⟩ := atIdle_next h
    cases hk
    exact ⟨c, .inr (.inl ⟨rfl, hr, setRegs_self hr⟩)⟩
  | init =>
    obtain ⟨c, hr, hk⟩ := atIdle_next h
    cases hk
    exact ⟨c, .inr (.inr (.inl ⟨rfl, hr, rfl⟩))⟩
  | data b =>
    obtain ⟨c, hr, hk⟩ := atIdle_next h
    cases hk
    exact ⟨c, .inr (.inr (.inr ⟨b, rfl, hr, rfl⟩))⟩
  | rsvd =>
    obtain ⟨c, -, hk⟩ := atIdle_next h
    cases hk

/-! The bits of `crc`. -/

/-- The polynomial's terms in the reflected form: `x^0`, `x^2` and `x^15` (`00_scope.md` R2). -/
theorem poly_getLsbD : ∀ i < 16, poly.getLsbD i = decide (i = 15 ∨ i = 13 ∨ i = 0) := by
  decide

theorem absorb_high (c : Word) (b : Byte) : (absorb c b).extractLsb' 8 8 = c.extractLsb' 8 8 := by
  have hb : (0#8 ++ b : Word).extractLsb' 8 8 = 0#8 := BitVec.extractLsb'_append_eq_left
  rw [absorb, zext16_eq_append, BitVec.extractLsb'_xor, hb, BitVec.xor_zero]

theorem absorb_low (c : Word) (b : Byte) : (absorb c b).extractLsb' 0 8 = c.extractLsb' 0 8 ^^^ b := by
  have hb : (0#8 ++ b : Word).extractLsb' 0 8 = b := BitVec.extractLsb'_append_eq_right
  rw [absorb, zext16_eq_append, BitVec.extractLsb'_xor, hb]

@[simp] theorem absorb_zero (c : Word) : absorb c 0x00#8 = c := BitVec.xor_zero

end Sys2Proof.Machine
end

section
/-! The obligations of `40_engine_commands.md`. -/

namespace Sys2Proof.Machine

/-- Settles O5: NOP writes back what it read, and a busy engine does not read the command. -/
theorem nopHoldsTheRegisters : Obligations.NopHoldsTheRegisters := by
  unfold Obligations.NopHoldsTheRegisters
  exact ⟨exec_nop_idle, fun c d dins => runTrace_nops_idle c dins [] d,
    fun c n t d x hn => step_command_busy c hn _ x t d⟩

/-- Settles O8: the bits of `shift1` are those to the left, with the bit shifted out fed back at the polynomial's
terms; SHIFT is what `busy = 1` selects. -/
theorem shiftIsOneFeedbackStep : Obligations.ShiftIsOneFeedbackStep := by
  unfold Obligations.ShiftIsOneFeedbackStep
  refine ⟨fun c n m t d h => ⟨exec_shift_busy h c t d, ?_⟩, fun c i hi => ?_, fun s => step_eq_exec_shift⟩
  · have hlast : m = 0 ↔ n = 1 := by omega
    simp [hlast]
  · rw [shift1_getLsbD, poly_getLsbD i hi]
    split_ifs with h15 h13 h0
    · simp [h15]
    · simp [h13]
    · simp [h0]
    · simp [h15, h13, h0]

/-- Settles O9: an idle engine decodes the opcode to RSVD; a busy engine and the reset tick do not examine it. -/
theorem reservedOpcodeIsRefusedWhereAccepted : Obligations.ReservedOpcodeIsRefusedWhereAccepted := by
  unfold Obligations.ReservedOpcodeIsRefusedWhereAccepted
  refine ⟨exec_rsvd_idle, fun c t d x => step_rsvd_idle c x t d, fun c n t d op x hn => ?_, fun r t d op x => ?_⟩
  · rw [step_command_busy c hn, step_command_busy c hn]
  · rw [step_reset rfl, step_reset rfl]

/-- Settles O12: `busy = 1` selects SHIFT, and the host has moved past the command. -/
theorem busyEngineIgnoresCommands : Obligations.BusyEngineIgnoresCommands := by
  unfold Obligations.BusyEngineIgnoresCommands
  intro c n m p t d h hp
  exact step_busy h hp c t d

/-- Settles O20: each of the four steps that have a next state writes the registers its rule names. -/
theorem stepsChangeOnlyTheirRegisters : Obligations.StepsChangeOnlyTheirRegisters := by
  unfold Obligations.StepsChangeOnlyTheirRegisters
  intro i s t h
  obtain ⟨c, ⟨rfl, n, m, hcnt, hr, rfl⟩ | ⟨rfl, hr, rfl⟩ | ⟨rfl, hr, rfl⟩ | ⟨b, rfl, hr, rfl⟩⟩ := exec_next_cases h
  · simp [hr, hcnt]
  · simp
  · simp [hr, Regs.cnt]
  · simp [hr, absorb_high]

/-- Settles O6: INIT does not read `crc`, and a busy engine does not read the command. -/
theorem initStartsAMessage : Obligations.InitStartsAMessage := by
  unfold Obligations.InitStartsAMessage
  refine ⟨exec_init_idle, fun c t d x y => ⟨step_init_idle c x _ d, step_init_idle _ y t d⟩, ?_, compute_nil⟩
  exact fun c n t d x hn => step_command_busy c hn _ x t d

/-- Settles O7: DATA absorbs the byte, which the zero extension leaves out of the high half. -/
theorem dataTakesInOneByte : Obligations.DataTakesInOneByte := by
  unfold Obligations.DataTakesInOneByte
  refine ⟨fun c b t d => ⟨exec_data_idle c b t d, absorb_high c b, absorb_low c b, busy_live _ 8⟩, fun c t d => ?_,
    fun c n t d b hn => step_command_busy c hn _ b t d⟩
  rw [exec_data_idle, absorb_zero]

/-- Settles O10: `step` by its two branches, and what the host's move and the ports are on a listed tick. -/
theorem stepRunsTheSelectedInstruction : Obligations.StepRunsTheSelectedInstruction := by
  unfold Obligations.StepRunsTheSelectedInstruction
  refine ⟨fun s hrst => if_pos hrst, fun s i hrst hi => ?_, advance_regs,
    fun r p t d => ⟨inputs_cons r p t d, advance_cons r p t d, selector_eq_append r.busy p⟩⟩
  rw [step, if_neg hrst, hi]

end Sys2Proof.Machine
end

section
/-! What the host knows, tick by tick (`41_compute.md` R60, R67): one tick moves the engine's registers as it moves the
host's view of them, or is refused where the view has no next one. -/

namespace Sys2Proof.Machine

theorem shiftTimes_succ (k : Nat) (c : Word) : shiftTimes (k + 1) c = shift1 (shiftTimes k c) := by
  induction k generalizing c with
  | zero => rfl
  | succ k ih => exact ih (shift1 c)

theorem compute_append (m m' : Message) : compute (m ++ m') = foldMessage (compute m) m' := List.foldl_append

theorem compute_append_singleton (m : Message) (b : Byte) : compute (m ++ [b]) = fold (compute m) b :=
  compute_append m [b]

/-! The host's view at one tick. -/

theorem tick_reset (v : HostView) {p : Inputs} (hp : p.rst = 1#1) : v.tick p = some (.idle []) := if_pos hp

theorem tick_busy_last (m : Message) (b : Byte) {p : Inputs} (hp : p.rst ≠ 1#1) :
    (HostView.busy m b 0).tick p = some (.idle (m ++ [b])) := if_neg hp

theorem tick_busy_succ (m : Message) (b : Byte) {k : Nat} (hk : k + 1 < 8) {p : Inputs} (hp : p.rst ≠ 1#1) :
    (HostView.busy m b ⟨k + 1, hk⟩).tick p = some (.busy m b ⟨k, by omega⟩) := if_neg hp

/-- The registers with one shift owed, shifted, are those of the byte folded (`41_compute.md` R61). -/
theorem step_busy_last (m : Message) (b : Byte) {p : Inputs} (hp : p.rst ≠ 1#1) (t : List Inputs) (d : Nat) :
    step ⟨(HostView.busy m b 0).regs, p :: t, d⟩ = .next ⟨(HostView.idle (m ++ [b])).regs, t, d⟩ := by
  have hfold : compute (m ++ [b]) = shift1 (shiftTimes 7 (absorb (compute m) b)) :=
    (compute_append_singleton m b).trans (shiftTimes_succ 7 _)
  rw [HostView.regs, HostView.regs, hfold]
  exact step_busy rfl hp _ t d

/-- The registers with more shifts owed, shifted, are those with one fewer owed. -/
theorem step_busy_succ (m : Message) (b : Byte) {k : Nat} (hk : k + 1 < 8) {p : Inputs} (hp : p.rst ≠ 1#1)
    (t : List Inputs) (d : Nat) :
    step ⟨(HostView.busy m b ⟨k + 1, hk⟩).regs, p :: t, d⟩
      = .next ⟨(HostView.busy m b ⟨k, by omega⟩).regs, t, d⟩ := by
  have hdone : 7 - k = 7 - (k + 1) + 1 := by omega
  rw [HostView.regs, HostView.regs, hdone, shiftTimes_succ]
  exact step_busy rfl hp _ t d

/-- A tick without reset presents a command. -/
theorem eq_command {p : Inputs} (hp : p.rst ≠ 1#1) : p = command p.op p.din := by
  have h0 : p.rst = 0#1 := (bit_cases p.rst).resolve_right hp
  rw [command, ← h0]

theorem op_cases : ∀ o : BitVec 2, o = 0b00#2 ∨ o = 0b01#2 ∨ o = 0b10#2 ∨ o = 0b11#2 := by decide

/-- The simulation, one tick: the engine's next registers are those of the host's next view, and where there is none the
command accepted is the reserved one (`40_engine_commands.md` R48 to R54). -/
theorem step_regs_eq_tick (v : HostView) (p : Inputs) (t : List Inputs) (d : Nat) :
    step ⟨v.regs, p :: t, d⟩ = (v.tick p).elim (.refused .reservedOp) fun v' => .next ⟨v'.regs, t, d⟩ := by
  by_cases hp : p.rst = 1#1
  · rw [tick_reset v hp]
    exact step_reset hp v.regs t d
  · cases v with
    | busy m b left =>
      obtain ⟨_ | k, hk⟩ := left
      · have hlast : (HostView.busy m b ⟨0, hk⟩).tick p = some (.idle (m ++ [b])) := tick_busy_last m b hp
        rw [hlast]
        exact step_busy_last m b hp t d
      · rw [tick_busy_succ m b hk hp]
        exact step_busy_succ m b hk hp t d
    | idle m =>
      rw [eq_command hp]
      rcases op_cases p.op with ho | ho | ho | ho <;> rw [ho]
      · exact step_nop_idle _ _ t d
      · exact step_init_idle _ _ t d
      · exact step_data_idle _ _ t d
      · exact step_rsvd_idle _ _ t d

/-- A tick of any host is that of one whose trace lists it. -/
theorem step_eq_step_listed (s : State) : step s = step ⟨s.regs, s.inputs :: s.advance.trace, s.advance.drawn⟩ := by
  obtain ⟨r, _ | ⟨p, t⟩, d⟩ := s <;> rfl

/-- The same, at any tick of a state the host keeps track of. -/
theorem step_of_tracks {v : HostView} {s : State} (h : Tracks v s) :
    step s = (v.tick s.inputs).elim (.refused .reservedOp) fun v' => .next (s.advance.setRegs v'.regs) := by
  rw [step_eq_step_listed, h]
  exact step_regs_eq_tick v s.inputs _ _

/-! The host's view after a trace. -/

theorem run_cons (v : HostView) (p : Inputs) (t : List Inputs) :
    v.run (p :: t) = (v.tick p).bind fun v' => v'.run t := by
  rw [HostView.run]
  cases v.tick p <;> rfl

/-- The simulation, over a trace. -/
theorem runTrace_regs_eq_run (v : HostView) (t u : List Inputs) (d : Nat) :
    runTrace ⟨v.regs, u, d⟩ t = (v.run t).elim (.refused .reservedOp) fun v' => .next ⟨v'.regs, [], d⟩ := by
  induction t generalizing v u with
  | nil => rfl
  | cons p t ih =>
    have hstep := step_regs_eq_tick v p t d
    rw [run_cons]
    cases hv : v.tick p with
    | none =>
      rw [hv] at hstep
      exact runTrace_mk_refused hstep
    | some v' =>
      rw [hv] at hstep
      exact (runTrace_mk_next hstep).trans (ih v' t)

/-- A trace that feeds a message, from the registers a start step leaves. -/
theorem runTrace_of_feeds {t : List Inputs} {m : Message} (h : feeds t m) (u : List Inputs) (d : Nat) :
    runTrace ⟨.live initValue 0, u, d⟩ t = .next ⟨.live (compute m) 0, [], d⟩ := by
  have hrun := runTrace_regs_eq_run (.idle []) t u d
  rw [h] at hrun
  exact hrun

/-! Start steps (`70_reset_and_hazards.md` R108, R109). -/

theorem exists_regs_eq_live_zero {s : State} (hdone : s.resetDone) (hidle : s.idle) : ∃ c, s.regs = .live c 0 := by
  obtain ⟨_ | ⟨c, n⟩, t, d⟩ := s
  · cases hdone
  · obtain rfl : n = 0 := (cnt_live_eq_zero c n).mp hidle
    exact ⟨c, rfl⟩

/-- A start step leaves the initial value and an idle engine, whatever the registers were. -/
theorem runTrace_cons_of_startsMessage {s : State} {p : Inputs} (h : startsMessage s p) (t : List Inputs) :
    runTrace s (p :: t) = runTrace ⟨.live initValue 0, t, s.drawn⟩ t := by
  by_cases hp : p.rst = 1#1
  · exact runTrace_cons_next (step_reset hp s.regs t s.drawn)
  · obtain ⟨hdone, hidle, hop⟩ := h.resolve_left hp
    obtain ⟨c, hc⟩ := exists_regs_eq_live_zero hdone hidle
    apply runTrace_cons_next
    rw [State.load, hc, eq_command hp, hop]
    exact step_init_idle c p.din t s.drawn

/-- A run of a message under the launch premises. -/
theorem runTrace_launched {s : State} {p : Inputs} {t : List Inputs} {m : Message} (hs : startsMessage s p)
    (ht : feeds t m) : runTrace s (p :: t) = .next ⟨.live (compute m) 0, [], s.drawn⟩ :=
  (runTrace_cons_of_startsMessage hs t).trans (runTrace_of_feeds ht t s.drawn)

end Sys2Proof.Machine
end

section
/-! FOLD and COMPUTE, loosely timed: what a DATA and the ticks after it do, and a message by its segments
(`41_compute.md` R61, R62). -/

namespace Sys2Proof.Machine

/-- An idle engine's ports. -/
theorem outputs_idle (c : Word) (t : List Inputs) (d : Nat) :
    State.outputs ⟨.live c 0, t, d⟩ = ⟨0#1, c, (split c).1, (split c).2⟩ := rfl

/-- The ports after a start step with no DATA. -/
theorem outputs_initValue (t : List Inputs) (d : Nat) :
    State.outputs ⟨.live initValue 0, t, d⟩ = ⟨0#1, 0xFFFF#16, 0xFF#8, 0xFF#8⟩ :=
  outputs_idle initValue t d

/-- `DATA b` and then as many shifts as ticks follow, up to eight. -/
theorem runTrace_data_cons {during : List Inputs} (hrst : ∀ p ∈ during, p.rst = 0#1) {n : Fin 9}
    (h : n.val + during.length = 8) (c : Word) (b : Byte) (u : List Inputs) (d : Nat) :
    runTrace ⟨.live c 0, u, d⟩ (command 0b10#2 b :: during)
      = .next ⟨.live (shiftTimes during.length (absorb c b)) n, [], d⟩ :=
  (runTrace_mk_next (step_data_idle c b during d)).trans (runTrace_shifts hrst h.symm _ _ _)

theorem runTrace_fold {during : List Inputs} (hrst : ∀ p ∈ during, p.rst = 0#1) (h : during.length = 8) (c : Word)
    (b : Byte) (u : List Inputs) (d : Nat) :
    runTrace ⟨.live c 0, u, d⟩ (command 0b10#2 b :: during) = .next ⟨.live (fold c b) 0, [], d⟩ := by
  rw [runTrace_data_cons (n := 0) hrst (by rw [h]; rfl), h]
  rfl

theorem runTrace_nopTrace_idle (k : Nat) (c : Word) (u : List Inputs) (d : Nat) :
    runTrace ⟨.live c 0, u, d⟩ (nopTrace k) = .next ⟨.live c 0, [], d⟩ := by
  have hk : nopTrace k = (List.replicate k 0x00#8).map (command 0b00#2) := by
    rw [List.map_replicate]
    rfl
  rw [hk, runTrace_nops_idle]

theorem Segment.wellFormed_iff (g : Segment) :
    g.wellFormed = true ↔ g.during.length = 8 ∧ ∀ p ∈ g.during, p.rst = 0#1 := by
  simp [Segment.wellFormed]

theorem runTrace_segment {g : Segment} (hg : g.wellFormed) (c : Word) (u : List Inputs) (d : Nat) :
    runTrace ⟨.live c 0, u, d⟩ g.trace = .next ⟨.live (fold c g.byte) 0, [], d⟩ := by
  obtain ⟨hlen, hrst⟩ := g.wellFormed_iff.mp hg
  rw [Segment.trace, runTrace_append _ (runTrace_nopTrace_idle g.idle c u d)]
  exact runTrace_fold hrst hlen c g.byte [] d

theorem runTrace_segments {gs : List Segment} (hgs : ∀ g ∈ gs, g.wellFormed) (c : Word) (d : Nat) :
    runTrace ⟨.live c 0, [], d⟩ (gs.flatMap Segment.trace)
      = .next ⟨.live (foldMessage c (gs.map Segment.byte)) 0, [], d⟩ := by
  induction gs generalizing c with
  | nil => rfl
  | cons g gs ih =>
    rw [List.forall_mem_cons] at hgs
    obtain ⟨hg, hgs⟩ := hgs
    rw [List.flatMap_cons, runTrace_append _ (runTrace_segment hg c [] d)]
    exact ih hgs (fold c g.byte)

/-- After a start step, the segments of a message and `NOP` ticks compute the message's check. -/
theorem runTrace_start_segments {s : State} {p : Inputs} (hs : startsMessage s p) {gs : List Segment}
    (hgs : ∀ g ∈ gs, g.wellFormed) (tail : Nat) :
    runTrace s (p :: gs.flatMap Segment.trace ++ nopTrace tail)
      = .next ⟨.live (compute (gs.map Segment.byte)) 0, [], s.drawn⟩ := by
  have hstart : runTrace s [p] = .next ⟨.live initValue 0, [], s.drawn⟩ := runTrace_cons_of_startsMessage hs []
  have hsegs := (runTrace_append _ hstart).trans (runTrace_segments hgs initValue s.drawn)
  exact (runTrace_append _ hsegs).trans (runTrace_nopTrace_idle tail _ [] s.drawn)

end Sys2Proof.Machine
end

section
/-! The algebra of `fold` (`41_compute.md` R68 to R72): `shift1` is linear over XOR and has an inverse; the table and
the serial form follow from its linearity. -/

namespace Sys2Proof.Machine

/-! Linearity (R69). -/

theorem shift1_xor (x y : Word) : shift1 (x ^^^ y) = shift1 x ^^^ shift1 y := by
  apply BitVec.eq_of_getLsbD_eq
  intro i _
  simp only [shift1_getLsbD, BitVec.getLsbD_xor, Bool.and_xor_distrib_right, Bool.xor_assoc, Bool.xor_left_comm]

theorem shiftTimes_xor (k : Nat) (x y : Word) : shiftTimes k (x ^^^ y) = shiftTimes k x ^^^ shiftTimes k y := by
  induction k generalizing x y with
  | zero => rfl
  | succ k ih => simp only [shiftTimes, shift1_xor, ih]

/-! The inverse (R69). -/

/-- `unshift1` reads the bit that was shifted out from bit 15. -/
theorem unshift1_getLsbD_zero (d : Word) : (unshift1 d).getLsbD 0 = d.getLsbD 15 := by
  rw [unshift1, BitVec.getLsbD_append, if_pos Nat.one_pos, BitVec.getLsbD_extractLsb']
  rfl

/-- Above it stand the bits of `d` with the feedback taken out. -/
theorem unshift1_getLsbD_succ (d : Word) {i : Nat} (hi : i < 15) :
    (unshift1 d).getLsbD (i + 1) = (d.getLsbD i ^^ (d.getLsbD 15 && poly.getLsbD i)) := by
  rw [unshift1, BitVec.getLsbD_append, if_neg (by omega : ¬ i + 1 < 1)]
  cases d.getLsbD 15 <;> simp [hi]

theorem shift1_unshift1 (d : Word) : shift1 (unshift1 d) = d := by
  apply BitVec.eq_of_getLsbD_eq
  intro i hi
  rw [shift1_getLsbD, unshift1_getLsbD_zero]
  by_cases h15 : i = 15
  · subst h15
    have htop : (unshift1 d).getLsbD 16 = false := BitVec.getLsbD_of_ge _ _ le_rfl
    have hpoly : poly.getLsbD 15 = true := by decide
    rw [htop, hpoly, Bool.false_xor, Bool.and_true]
  · rw [unshift1_getLsbD_succ d (by omega), Bool.xor_assoc, Bool.xor_self, Bool.xor_false]

theorem unshift1_shift1 (c : Word) : unshift1 (shift1 c) = c :=
  shift1_injective (shift1_unshift1 (shift1 c))

theorem shift1_bijective : Function.Bijective shift1 :=
  ⟨shift1_injective, fun d => ⟨unshift1 d, shift1_unshift1 d⟩⟩

theorem shiftTimes_bijective (k : Nat) : Function.Bijective (shiftTimes k) := by
  induction k with
  | zero => exact Function.bijective_id
  | succ k ih => exact ih.comp shift1_bijective

theorem absorb_involutive (b : Byte) : Function.Involutive fun c => absorb c b := fun c => by
  simp only [absorb, BitVec.xor_assoc, BitVec.xor_self, BitVec.xor_zero]

/-! The byte (R68). -/

theorem absorb_right_injective (c : Word) : Function.Injective (absorb c) := fun a b h => by
  have hlow := congrArg (BitVec.extractLsb' 0 8) h
  rwa [absorb_low, absorb_low, BitVec.xor_right_inj] at hlow

theorem fold_right_injective (c : Word) : Function.Injective (fold c) :=
  (shiftTimes_injective bitsPerByte).comp (absorb_right_injective c)

/-! The table form (R72). -/

theorem high_append_low (c : Word) : (c.extractLsb' 8 8 ++ c.extractLsb' 0 8 : Word) = c :=
  ((eq_split_iff _ _ c).mp rfl).symm

theorem zext16_high (c : Word) : zext16 (c.extractLsb' 8 8) = c >>> 8 :=
  (zext16_eq_append _).trans (BitVec.ushiftRight_eq_extractLsb'_of_lt (by decide)).symm

theorem absorb_zero_left (b : Byte) : absorb 0x0000#16 b = zext16 b := BitVec.zero_xor

/-- The low byte is shifted out, and only it feeds back. -/
theorem fold_eq_tableFold (c : Word) (b : Byte) : fold c b = tableFold c b := by
  have hsplit : absorb c b = (c.extractLsb' 8 8 ++ 0#8 : Word) ^^^ zext16 ((absorb c b).extractLsb' 0 8) := by
    rw [xor_zext16, ← absorb_high c b, high_append_low]
  calc fold c b
      = shiftTimes 8 ((c.extractLsb' 8 8 ++ 0#8 : Word) ^^^ zext16 ((absorb c b).extractLsb' 0 8)) :=
        congrArg (shiftTimes 8) hsplit
    _ = (c >>> 8) ^^^ shiftTimes 8 (zext16 ((absorb c b).extractLsb' 0 8)) := by
        rw [shiftTimes_xor, shiftTimes_highByte, zext16_high]
    _ = tableFold c b := by
        rw [tableFold, tableEntry, fold, absorb_zero_left]
        rfl

/-! The accumulator values that some byte leaves as they are (R68). -/

/-- The high byte XORed into the low byte. -/
def mixHigh (c : Word) : Word := c ^^^ (c >>> 8)

theorem mixHigh_involutive : Function.Involutive mixHigh := fun c => by
  have hout : c >>> 8 >>> 8 = 0#16 := by
    rw [← BitVec.shiftRight_add]
    exact BitVec.ushiftRight_eq_zero le_rfl
  rw [mixHigh, mixHigh, BitVec.ushiftRight_xor_distrib, hout, BitVec.xor_zero, BitVec.xor_assoc, BitVec.xor_self,
    BitVec.xor_zero]

theorem fold_eq_self_iff (c : Word) (b : Byte) :
    fold c b = c ↔ mixHigh (tableEntry (c.extractLsb' 0 8 ^^^ b)) = c := by
  have htable : fold c b = (c >>> 8) ^^^ tableEntry (c.extractLsb' 0 8 ^^^ b) := by
    rw [fold_eq_tableFold, tableFold, ← absorb_low, absorb]
  calc fold c b = c
      ↔ (c >>> 8) ^^^ tableEntry (c.extractLsb' 0 8 ^^^ b) = (c >>> 8) ^^^ mixHigh c := by
        rw [htable, mixHigh, BitVec.xor_comm c, ← BitVec.xor_assoc, BitVec.xor_self, BitVec.zero_xor]
    _ ↔ tableEntry (c.extractLsb' 0 8 ^^^ b) = mixHigh c := BitVec.xor_right_inj _
    _ ↔ mixHigh (tableEntry (c.extractLsb' 0 8 ^^^ b)) = c := (mixHigh_involutive.eq_iff).symm

/-- The values a byte leaves as they are, numbered by the index of the table. -/
theorem exists_fold_eq_self_iff (c : Word) : (∃ b, fold c b = c) ↔ ∃ i, mixHigh (tableEntry i) = c := by
  simp only [fold_eq_self_iff]
  constructor
  · rintro ⟨b, h⟩
    exact ⟨c.extractLsb' 0 8 ^^^ b, h⟩
  · rintro ⟨i, h⟩
    refine ⟨c.extractLsb' 0 8 ^^^ i, ?_⟩
    rwa [← BitVec.xor_assoc, BitVec.xor_self, BitVec.zero_xor]

/-! The serial form (R71). -/

theorem zext16_getLsbD (b : Byte) (i : Nat) : (zext16 b).getLsbD i = b.getLsbD i := by
  rw [zext16, BitVec.getLsbD_setWidth, Bool.and_eq_right_iff_imp, decide_eq_true_iff]
  exact fun hbit => (BitVec.lt_of_getLsbD hbit).trans (by decide)

theorem zext16_ushiftRight (b : Byte) : zext16 b >>> 8 = 0#16 := by
  have hhigh : (zext16 b).extractLsb' 8 8 = 0#8 := by
    rw [zext16_eq_append]
    exact BitVec.extractLsb'_append_eq_left
  rw [← zext16_high, hhigh]
  rfl

/-- One shift of an accumulator into which `y` was XORed: bit 0 of `y` is used in the feedback, the others wait. -/
theorem shift1_xor_eq_sershift (c y : Word) : shift1 (c ^^^ y) = sershift c (y.getLsbD 0) ^^^ (y >>> 1) := by
  rw [shift1, sershift, BitVec.getLsbD_xor, BitVec.ushiftRight_xor_distrib]
  split
  · rw [BitVec.xor_assoc, BitVec.xor_assoc, BitVec.xor_comm poly]
  · rw [BitVec.xor_zero]

theorem shiftTimes_xor_eq_sershift (k : Nat) (c y : Word) :
    shiftTimes k (c ^^^ y) = (List.range k).foldl (fun a i => sershift a (y.getLsbD i)) c ^^^ (y >>> k) := by
  induction k with
  | zero => rw [BitVec.ushiftRight_zero]; rfl
  | succ k ih =>
    have hbit : (y >>> k).getLsbD 0 = y.getLsbD k := by rw [BitVec.getLsbD_ushiftRight, Nat.add_zero]
    rw [shiftTimes_succ, ih, shift1_xor_eq_sershift, hbit, List.range_succ, List.foldl_append, BitVec.shiftRight_add]
    rfl

end Sys2Proof.Machine
end

section
/-! The obligations of `41_compute.md`. -/

namespace Sys2Proof.Machine

/-- Settles O28: the simulation at one tick, read from a next state and from a view that has no next one. -/
theorem everyStepKeepsTrackOfAcceptedBytes : Obligations.EveryStepKeepsTrackOfAcceptedBytes := by
  unfold Obligations.EveryStepKeepsTrackOfAcceptedBytes
  constructor
  · intro v s t hv ht
    rw [step_of_tracks hv] at ht
    cases hnext : v.tick s.inputs with
    | none => rw [hnext] at ht; cases ht
    | some v' => rw [hnext] at ht; cases ht; exact ⟨v', rfl, rfl⟩
  · intro v s hv hnone
    rw [step_of_tracks hv, hnone, Option.elim_none]

/-- Settles O25: DATA absorbs the byte and owes eight shifts, of which the first `k` ticks do `k`. -/
theorem foldTakesNineTicks : Obligations.FoldTakesNineTicks := by
  unfold Obligations.FoldTakesNineTicks
  intro c b d during hlen hrst
  refine ⟨runTrace_fold hrst hlen c b [] d, fun k hk => ?_⟩
  have htake : (during.take k).length = k := List.length_take_of_le (by omega)
  have howed : 8 - k + (during.take k).length = 8 := by rw [htake]; exact Nat.sub_add_cancel hk.le
  have hn : (⟨8 - k, by omega⟩ : Fin 9) ≠ 0 := Fin.ne_of_val_ne (Nat.sub_ne_zero_of_lt hk)
  have hrun := runTrace_data_cons (fun p hp => hrst p (List.mem_of_mem_take hp)) (n := ⟨8 - k, by omega⟩) howed c b [] d
  rw [htake] at hrun
  exact ⟨_, rfl, (busy_live _ _).trans (if_neg hn), hrun⟩

/-- Settles O26: both openings are start steps. -/
theorem computeTraceYieldsTheCheck : Obligations.ComputeTraceYieldsTheCheck := by
  unfold Obligations.ComputeTraceYieldsTheCheck
  exact ⟨fun c d x gs tail hgs => runTrace_start_segments (s := ⟨.live c 0, [], d⟩) (.inr ⟨rfl, rfl, rfl⟩) hgs tail,
    fun s op x gs tail hgs => runTrace_start_segments (.inl rfl) hgs tail, fun m => outputs_idle (compute m)⟩

/-- Settles O29: the simulation over a trace, from the view that has no byte accepted. -/
theorem everyTraceFromResetIsAccounted : Obligations.EveryTraceFromResetIsAccounted := by
  unfold Obligations.EveryTraceFromResetIsAccounted
  intro t
  refine (runTrace_regs_eq_run (.idle []) t [] 0).trans ?_
  cases HostView.run (.idle []) t <;> rfl

/-- Settles O30: an idle view calls for the check of its bytes, with no shift owed. -/
theorem runningCheckIsTheCheckSoFar : Obligations.RunningCheckIsTheCheckSoFar := by
  unfold Obligations.RunningCheckIsTheCheckSoFar
  exact ⟨compute_append, compute_append_singleton, fun t m h => ⟨_, runTrace_of_feeds h [] 0, rfl, rfl⟩⟩

/-- Settles O32: each run ends with the check of the message and no shift owed. -/
theorem resultIgnoresHistoryAndTiming : Obligations.ResultIgnoresHistoryAndTiming := by
  unfold Obligations.ResultIgnoresHistoryAndTiming
  intro s s' p p' t t' m hs ht hs' ht'
  exact ⟨_, _, runTrace_launched hs ht, runTrace_launched hs' ht', rfl⟩

/-- Settles O39: `fold` for a fixed byte is the bijection `absorb` and then eight times the bijection `shift1`. -/
theorem shiftAndFoldAreBijective : Obligations.ShiftAndFoldAreBijective := by
  unfold Obligations.ShiftAndFoldAreBijective
  refine ⟨unshift1_shift1, shift1_unshift1, fun b => ?_, shift1_xor, by decide⟩
  exact (shiftTimes_bijective bitsPerByte).comp (absorb_involutive b).bijective

/-- Settles O40: both bytes fold the check of `m` into one value; and the values some byte leaves as they are come one
from each entry of the table. -/
theorem trailingByteChangesTheCheck : Obligations.TrailingByteChangesTheCheck := by
  unfold Obligations.TrailingByteChangesTheCheck
  refine ⟨fun c a b h => fold_right_injective c h, fun m a b ha hb => ?_, fun i => mixHigh (tableEntry i), ?_,
    exists_fold_eq_self_iff⟩
  · rw [compute_append_singleton] at ha hb
    exact fold_right_injective (compute m) (ha.trans hb.symm)
  · exact mixHigh_involutive.injective.comp (fold_right_injective 0x0000#16)

/-- Settles O41: `fold` answers zero only from the word whose halves are the two bytes. -/
theorem residueIsZeroExactlyForTheCheckBytes : Obligations.ResidueIsZeroExactlyForTheCheckBytes := by
  unfold Obligations.ResidueIsZeroExactlyForTheCheckBytes
  exact compute_append_eq_zero_iff

/-- Settles O43: after eight steps every bit of the byte has been used, and none waits. -/
theorem serialFormEqualsFold : Obligations.SerialFormEqualsFold := by
  unfold Obligations.SerialFormEqualsFold
  intro c b
  rw [fold, absorb, bitsPerByte, shiftTimes_xor_eq_sershift, zext16_ushiftRight, BitVec.xor_zero]
  simp only [zext16_getLsbD]
  rfl

/-- Settles O44: the table form. -/
theorem tableFormEqualsFold : Obligations.TableFormEqualsFold := by
  unfold Obligations.TableFormEqualsFold
  exact fold_eq_tableFold

/-- Settles O21: the zero extension has no bit in the high half. -/
theorem absorbTouchesTheLowByteOnly : Obligations.AbsorbTouchesTheLowByteOnly := by
  unfold Obligations.AbsorbTouchesTheLowByteOnly
  exact fun c b => ⟨rfl, absorb_high c b, absorb_low c b⟩

/-- Settles O37: INIT and reset leave the same registers, those of the empty message. -/
theorem emptyMessageKeepsTheInitialValue : Obligations.EmptyMessageKeepsTheInitialValue := by
  unfold Obligations.EmptyMessageKeepsTheInitialValue
  exact ⟨compute_nil, fun c t d x => ⟨_, step_init_idle c x t d, outputs_initValue t d⟩,
    fun r t d op x => ⟨_, step_reset rfl r t d, outputs_initValue t d⟩⟩

end Sys2Proof.Machine
end

section
/-! The result ports and `split` (`42_result_split.md` R74, R77, R78). -/

namespace Sys2Proof.Machine

/-- `c = 256 * high + low`: the low byte is the remainder of `c` by 256 and the high byte its quotient. -/
theorem toNat_eq_split (c : Word) : c.toNat = 256 * (split c).2.toNat + (split c).1.toNat := by
  have hlow : (split c).1.toNat = c.toNat % 256 := BitVec.extractLsb'_toNat 0 8 c
  have hhigh : (split c).2.toNat = c.toNat / 256 := by
    rw [split, BitVec.extractLsb'_toNat, Nat.shiftRight_eq_div_pow]
    exact Nat.mod_eq_of_lt (Nat.div_lt_of_lt_mul c.isLt)
  rw [hlow, hhigh, Nat.div_add_mod]

theorem split_append (lo hi : Byte) : split (hi ++ lo) = (lo, hi) :=
  ((eq_split_iff lo hi _).mpr rfl).symm

/-- Settles O45: the ports are the halves of `crc` by definition, and the halves append to the word they came from. -/
theorem resultPortsRecombine : Obligations.ResultPortsRecombine := by
  unfold Obligations.ResultPortsRecombine
  exact ⟨fun r => ⟨rfl, rfl, rfl, rfl, (high_append_low r.crc).symm⟩, toNat_eq_split, split_append⟩

end Sys2Proof.Machine
end

section
/-! What stops a tick and what does not (`60_exceptions.md` R79, R83, R88), and the boundary of wider numbers
(R80); and the obligations of `60_exceptions.md`. -/

namespace Sys2Proof.Machine

/-! Where a tick is refused and where it goes on. -/

theorem exec_powerOn (i : Instr) (c : Word) (n : BitVec 4) (t : List Inputs) (d : Nat) :
    exec i ⟨.powerOn c n, t, d⟩ = .refused .notReset := by
  cases i <;> rfl

/-- Before the first reset every step but the reset step is refused (`70_reset_and_hazards.md` R99). -/
theorem step_eq_refused_notReset {s : State} (hrst : s.inputs.rst ≠ 1#1) (hdone : ¬ s.resetDone) :
    step s = .refused .notReset := by
  rw [step_eq_step_listed, step_command hrst]
  cases hr : s.regs with
  | powerOn c n => exact exec_powerOn _ c n _ _
  | live c n => exact absurd (congrArg Regs.resetDone hr) hdone

theorem State.busy_eq_zero_iff_idle (s : State) : s.busy = 0#1 ↔ s.idle := by
  simp [State.busy, Regs.busy]

/-- On an idle engine that has been reset the tick is that of the command presented. -/
theorem exists_step_eq_step_command {s : State} (hrst : s.inputs.rst ≠ 1#1) (hdone : s.resetDone)
    (hbusy : s.busy = 0#1) : ∃ c,
      step s = step ⟨.live c 0, command s.inputs.op s.inputs.din :: s.advance.trace, s.advance.drawn⟩ := by
  obtain ⟨c, hc⟩ := exists_regs_eq_live_zero hdone (s.busy_eq_zero_iff_idle.mp hbusy)
  exact ⟨c, by rw [step_eq_step_listed, hc, ← eq_command hrst]⟩

theorem step_eq_refused_reservedOp {s : State} (hrst : s.inputs.rst ≠ 1#1) (hdone : s.resetDone)
    (hbusy : s.busy = 0#1) (hop : s.inputs.op = 0b11#2) : step s = .refused .reservedOp := by
  obtain ⟨c, hs⟩ := exists_step_eq_step_command hrst hdone hbusy
  rw [hs, hop, step_rsvd_idle]

theorem exists_step_eq_next_of_busy {s : State} (hrst : s.inputs.rst ≠ 1#1) (hdone : s.resetDone)
    (hbusy : s.busy = 1#1) : ∃ t, step s = .next t := by
  rw [step_eq_step_listed]
  obtain ⟨_ | ⟨c, n⟩, t, d⟩ := s
  · cases hdone
  · have hn : n ≠ 0 := by
      rintro rfl
      cases hbusy
    exact ⟨_, step_busy (m := cntPred n) (Nat.succ_pred (Fin.val_ne_zero_iff.mpr hn)).symm hrst c _ _⟩

theorem exists_step_eq_next_of_command {s : State} (hrst : s.inputs.rst ≠ 1#1) (hdone : s.resetDone)
    (hbusy : s.busy = 0#1) (hop : s.inputs.op ≠ 0b11#2) : ∃ t, step s = .next t := by
  obtain ⟨c, hs⟩ := exists_step_eq_step_command hrst hdone hbusy
  rw [hs]
  rcases op_cases s.inputs.op with ho | ho | ho | ho
  · exact ⟨_, by rw [ho, step_nop_idle]⟩
  · exact ⟨_, by rw [ho, step_init_idle]⟩
  · exact ⟨_, by rw [ho, step_data_idle]⟩
  · exact absurd ho hop

/-- No state is stuck: at a reset, and after one wherever the reserved opcode is not accepted, a tick has a next state
(`60_exceptions.md` section 3). -/
theorem exists_step_eq_next {s : State}
    (h : s.inputs.rst = 1#1 ∨ (s.resetDone ∧ (s.busy = 1#1 ∨ s.inputs.op ≠ 0b11#2))) : ∃ t, step s = .next t := by
  by_cases hrst : s.inputs.rst = 1#1
  · exact ⟨_, if_pos hrst⟩
  · obtain ⟨hdone, hgo⟩ := h.resolve_left hrst
    rcases bit_cases s.busy with hbusy | hbusy
    · exact exists_step_eq_next_of_command hrst hdone hbusy (hgo.resolve_left (by simp [hbusy]))
    · exact exists_step_eq_next_of_busy hrst hdone hbusy

/-- The refusals of a tick, one for each row of the table of `60_exceptions.md` R88 that a tick can come to. -/
theorem step_eq_refused_iff (s : State) (r : Refusal) : step s = .refused r ↔
    s.inputs.rst ≠ 1#1 ∧ ((r = .notReset ∧ ¬ s.resetDone) ∨
      (r = .reservedOp ∧ s.resetDone ∧ s.busy = 0#1 ∧ s.inputs.op = 0b11#2)) := by
  constructor
  · intro h
    have hstop : ¬ (s.inputs.rst = 1#1 ∨ (s.resetDone ∧ (s.busy = 1#1 ∨ s.inputs.op ≠ 0b11#2))) := fun hgo => by
      obtain ⟨t, ht⟩ := exists_step_eq_next hgo
      cases h.symm.trans ht
    obtain ⟨hrst, hstop⟩ := not_or.mp hstop
    by_cases hdone : s.resetDone
    · obtain ⟨hbusy, hop⟩ := not_or.mp fun hgo => hstop ⟨hdone, hgo⟩
      have hbusy : s.busy = 0#1 := (bit_cases s.busy).resolve_right hbusy
      have hop : s.inputs.op = 0b11#2 := not_not.mp hop
      cases h.symm.trans (step_eq_refused_reservedOp hrst hdone hbusy hop)
      exact ⟨hrst, .inr ⟨rfl, hdone, hbusy, hop⟩⟩
    · cases h.symm.trans (step_eq_refused_notReset hrst hdone)
      exact ⟨hrst, .inl ⟨rfl, hdone⟩⟩
  · rintro ⟨hrst, ⟨rfl, hdone⟩ | ⟨rfl, hdone, hbusy, hop⟩⟩
    · exact step_eq_refused_notReset hrst hdone
    · exact step_eq_refused_reservedOp hrst hdone hbusy hop

/-! The boundary of wider numbers. -/

/-- The number a byte stands for. -/
def byteValue (b : Byte) : Int := b.toNat

theorem mem_range_byteValue_iff (n : Int) : n ∈ Set.range byteValue ↔ 0 ≤ n ∧ n ≤ 255 := by
  constructor
  · rintro ⟨b, rfl⟩
    have hb := b.isLt
    unfold byteValue
    omega
  · rintro ⟨h0, h255⟩
    refine ⟨BitVec.ofInt 8 n, ?_⟩
    rw [byteValue, BitVec.toNat_ofInt]
    omega

/-- The boundary takes a number as the byte of that value, and as no other. -/
theorem byteOfInt_eq_some_iff (n : Int) (b : Byte) : byteOfInt n = some b ↔ byteValue b = n := by
  constructor
  · intro h
    obtain ⟨hn, rfl⟩ := Option.ite_some_none_eq_some.mp h
    obtain ⟨h0, h255⟩ := of_decide_eq_true hn
    rw [byteValue, BitVec.toNat_ofInt]
    omega
  · rintro rfl
    have hn : byteInRange (byteValue b) := decide_eq_true ((mem_range_byteValue_iff _).mp ⟨b, rfl⟩)
    rw [byteOfInt, if_pos hn, byteValue, BitVec.ofInt_natCast, BitVec.ofNat_toNat, BitVec.setWidth_eq]

theorem bytesOfInts_cons (n : Int) (m : List Int) :
    bytesOfInts (n :: m) = (byteOfInt n).bind fun b => (bytesOfInts m).map (b :: ·) := by
  rw [bytesOfInts]
  cases byteOfInt n <;> cases bytesOfInts m <;> rfl

/-- The boundary takes a list as the message of those values, and as no other. -/
theorem bytesOfInts_eq_some_iff (m : List Int) (bs : Message) :
    bytesOfInts m = some bs ↔ bs.map byteValue = m := by
  induction m generalizing bs with
  | nil => exact Option.some_inj.trans (eq_comm.trans List.map_eq_nil_iff.symm)
  | cons n m ih =>
    simp only [bytesOfInts_cons, Option.bind_eq_some_iff, Option.map_eq_some_iff, byteOfInt_eq_some_iff, ih,
      List.map_eq_cons_iff]
    constructor
    · rintro ⟨b, hb, bs, hbs, rfl⟩
      exact ⟨b, bs, rfl, hb, hbs⟩
    · rintro ⟨b, bs, rfl, hb, hbs⟩
      exact ⟨b, hb, bs, hbs, rfl⟩

/-! The obligations. -/

/-- Settles O11: the selector has `busy` above `op`, and the decoder reads them in that order. -/
theorem resetBeatsShiftBeatsCommand : Obligations.ResetBeatsShiftBeatsCommand := by
  unfold Obligations.ResetBeatsShiftBeatsCommand
  intro s
  by_cases hrst : s.inputs.rst = 1#1
  · rw [if_pos hrst]
    exact if_pos hrst
  · rw [if_neg hrst]
    rcases bit_cases s.busy with hbusy | hbusy
    · rw [step, if_neg hrst, State.selector, hbusy, decode_selector_idle, if_neg (by decide : (0#1 : Bit) ≠ 1#1)]
      split_ifs <;> rfl
    · rw [if_pos hbusy]
      exact step_eq_exec_shift hrst hbusy

/-- Settles O18: where the tick goes on, where it is refused, and that there is no fault to answer. -/
theorem stepStopsOnlyAsTheSpecSays : Obligations.StepStopsOnlyAsTheSpecSays := by
  unfold Obligations.StepStopsOnlyAsTheSpecSays
  exact ⟨nofun, step_eq_refused_iff, fun s => exists_step_eq_next⟩

/-- Settles O23: each tick takes one from the counter, which a DATA loads with 8. -/
theorem owedShiftsRunOut : Obligations.OwedShiftsRunOut := by
  unfold Obligations.OwedShiftsRunOut
  refine ⟨fun c n d during hlen hrst => ?_, fun c t d b => step_data_idle c b t d⟩
  exact ⟨⟨n.val - during.length, by omega⟩, rfl, runTrace_shifts hrst (Nat.sub_add_cancel hlen).symm c [] d⟩

/-- Settles O46: the numbers in the range are those a byte stands for, and the boundary takes nothing else. -/
theorem wideMessagesAreRejectedNotMasked : Obligations.WideMessagesAreRejectedNotMasked := by
  unfold Obligations.WideMessagesAreRejectedNotMasked
  intro m
  constructor
  · intro hm
    have hm : m ∈ Set.range (List.map byteValue) := by
      rw [Set.range_list_map]
      exact fun n hn => (mem_range_byteValue_iff n).mpr (hm n hn)
    obtain ⟨bs, hbs⟩ := hm
    exact ⟨bs, by rw [messageOfInts, (bytesOfInts_eq_some_iff m bs).mpr hbs], hbs⟩
  · rintro ⟨n, hn, hout⟩
    have hnone : bytesOfInts m = none := by
      rw [Option.eq_none_iff_forall_ne_some]
      intro bs h
      rw [← (bytesOfInts_eq_some_iff m bs).mp h, List.mem_map] at hn
      obtain ⟨b, -, hb⟩ := hn
      have hin := (mem_range_byteValue_iff n).mp ⟨b, hb⟩
      omega
    rw [messageOfInts, hnone]

end Sys2Proof.Machine
end

section
/-! Reset, the launch of a message and how long it takes (`70_reset_and_hazards.md` R94 to R112). -/

namespace Sys2Proof.Machine

/-! Runs of reset ticks. -/

/-- A reset held on an engine that is in the reset registers keeps it there (`70_reset_and_hazards.md` R94). -/
theorem runTrace_resets {t : List Inputs} (ht : ∀ p ∈ t, p.rst = 1#1) (u : List Inputs) (d : Nat) :
    runTrace ⟨.live initValue 0, u, d⟩ t = .next ⟨.live initValue 0, [], d⟩ := by
  induction t generalizing u with
  | nil => rfl
  | cons p t ih =>
    rw [List.forall_mem_cons] at ht
    obtain ⟨hp, ht⟩ := ht
    rw [runTrace_mk_next (step_reset hp _ t d), ih ht]

/-! The ticks of a message fed back to back. -/

theorem length_foldTrace (b : Byte) : (foldTrace b).length = 9 := rfl

/-- `1 + 9n` ticks, the INIT and nine for each byte (`70_reset_and_hazards.md` R110). -/
theorem length_computeTrace (m : Message) : (computeTrace m).length = 1 + 9 * m.length := by
  have hfolds : (foldsTrace m).length = m.length * 9 := by simp [foldsTrace, List.length_flatMap, length_foldTrace]
  rw [computeTrace, List.length_cons, hfolds]
  omega

/-- All but the last tick of a message that ends with `b`: COMPUTE of the bytes before, `DATA b` and seven of its eight
shifts. -/
theorem dropLast_computeTrace_append (m : Message) (b : Byte) :
    (computeTrace (m ++ [b])).dropLast = computeTrace m ++ lineInputs (.data b) :: nopTrace 7 := by
  have hsplit : computeTrace (m ++ [b]) = computeTrace m ++ foldTrace b := by simp [computeTrace, foldsTrace]
  exact (congrArg List.dropLast hsplit).trans (List.dropLast_append_of_ne_nil (List.cons_ne_nil _ _))

/-- One tick before the end of a message that ends with `b`, one shift is owed. -/
theorem runTrace_dropLast_computeTrace (m : Message) (b : Byte) (c : Word) (d : Nat) :
    runTrace ⟨.live c 0, [], d⟩ (computeTrace (m ++ [b])).dropLast
      = .next ⟨.live (shiftTimes 7 (absorb (compute m) b)) 1, [], d⟩ := by
  rw [dropLast_computeTrace_append, runTrace_append _ (runTrace_computeTrace m c d)]
  exact runTrace_data_cons (nopTrace_rst 7) rfl (compute m) b [] d

/-! The obligations. -/

/-- Settles O2: the first tick leaves the reset registers, and those after it keep them. -/
theorem resetMayBeHeld : Obligations.ResetMayBeHeld := by
  unfold Obligations.ResetMayBeHeld
  intro s t hne ht
  cases t with
  | nil => exact absurd rfl hne
  | cons p t =>
    rw [List.forall_mem_cons] at ht
    obtain ⟨hp, ht⟩ := ht
    exact (runTrace_cons_of_startsMessage (.inl hp) t).trans (runTrace_resets ht t s.drawn)

/-- Settles O31: the run ends idle with the check of the message, which the ports show. -/
theorem launchedRunEndsInTheCheck : Obligations.LaunchedRunEndsInTheCheck := by
  unfold Obligations.LaunchedRunEndsInTheCheck
  intro s p t m hs ht
  exact ⟨_, runTrace_launched hs ht, outputs_idle (compute m) [] s.drawn⟩

/-- Settles O33: the reset line and the INIT at an idle tick are both start steps. -/
theorem resetDiscardsTheMessage : Obligations.ResetDiscardsTheMessage := by
  unfold Obligations.ResetDiscardsTheMessage
  intro s s' t u op x h
  constructor
  · rw [runTrace_append _ h]
    exact runTrace_cons_of_startsMessage (.inl rfl) u
  · intro c
    exact runTrace_cons_of_startsMessage (s := ⟨.live c 0, [], s'.drawn⟩) (.inr ⟨rfl, rfl, rfl⟩) u

/-- Settles O35: the folds of the second message go on from the check of the first. -/
theorem bytesWithoutInitContinueTheMessage : Obligations.BytesWithoutInitContinueTheMessage := by
  unfold Obligations.BytesWithoutInitContinueTheMessage
  intro m1 m2 d
  rw [compute_append]
  exact runTrace_foldsTrace m2 (compute m1) d

/-- Settles O36: a non-empty message has a last byte, whose last shift is the last tick. -/
theorem messageTakesNineTicksAByte : Obligations.MessageTakesNineTicksAByte := by
  unfold Obligations.MessageTakesNineTicksAByte
  intro m c d
  refine ⟨length_computeTrace m, runTrace_computeTrace m c d, fun hm => ?_⟩
  obtain ⟨m', b, rfl⟩ := m.eq_nil_or_concat'.resolve_left hm
  exact ⟨_, runTrace_dropLast_computeTrace m' b c d, rfl⟩

/-- Settles O1: the reset branch of `step`, the ports of the initial value, and INIT's write. -/
theorem resetStepFromAnyState : Obligations.ResetStepFromAnyState := by
  unfold Obligations.ResetStepFromAnyState
  exact ⟨fun s hrst => if_pos hrst, fun s => outputs_initValue s.trace s.drawn, exec_init_idle⟩

/-- Settles O4: power-on registers are none that a reset has produced, and the reset step does not read them. -/
theorem beforeTheFirstResetOnlyResetRuns : Obligations.BeforeTheFirstResetOnlyResetRuns := by
  unfold Obligations.BeforeTheFirstResetOnlyResetRuns
  exact ⟨fun c n p t hrst => step_eq_refused_notReset (s := State.powerOn c n (p :: t)) hrst nofun,
    fun c n p t hrst => step_reset hrst (.powerOn c n) t 0, exec_powerOn⟩

end Sys2Proof.Machine
end

section
/-! What the spec prints about selectors and checks (`95_test_vectors.md`), and the model's own two choices: a step
applied where its `busy` bit does not select it, and a tick the trace does not list. -/

namespace Sys2Proof.Machine

/-! Steps applied where they are not selected. -/

theorem exec_shift_idle (c : Word) (t : List Inputs) (d : Nat) :
    exec .shift ⟨.live c 0, t, d⟩ = .refused .notSelected := rfl

/-- Each step but SHIFT asks for an idle engine first (`30_encoding.md` R39). -/
theorem exec_busy_of_ne_shift {i : Instr} (hi : i ≠ .shift) (c : Word) {n : Fin 9} (hn : n ≠ 0) (t : List Inputs)
    (d : Nat) : exec i ⟨.live c n, t, d⟩ = .refused .notSelected := by
  cases i with
  | shift => exact absurd rfl hi
  | nop | init | data b | rsvd => exact if_neg hn

/-- RSVD has no next state: before a reset, idle and busy it is refused, each by its own name. -/
theorem exists_exec_rsvd_eq_refused (s : State) : ∃ r, exec .rsvd s = .refused r := by
  obtain ⟨_ | ⟨c, n⟩, t, d⟩ := s
  · exact ⟨_, exec_powerOn .rsvd _ _ t d⟩
  · by_cases hn : n = 0
    · subst hn
      exact ⟨_, exec_rsvd_idle c t d⟩
    · exact ⟨_, exec_busy_of_ne_shift (i := .rsvd) nofun c hn t d⟩

/-! Checks, one byte at a time. -/

theorem foldMessage_cons (c : Word) (b : Byte) (m : Message) :
    foldMessage c (b :: m) = foldMessage (fold c b) m := List.foldl_cons

theorem foldMessage_nil (c : Word) : foldMessage c [] = c := rfl

theorem compute_singleton (b : Byte) : compute [b] = fold initValue b := rfl

/-- V4's byte, and the first of V2's frame. -/
theorem fold_initValue_one : fold initValue 0x01#8 = 0x807E#16 := by decide

/-- V2, through the accumulator values the spec prints after each byte. -/
theorem compute_readRequest_device1 :
    compute [0x01#8, 0x03#8, 0x00#8, 0x00#8, 0x00#8, 0x0A#8] = 0xCDC5#16 := by
  have h2 : fold 0x807E#16 0x03#8 = 0x2140#16 := by decide
  have h3 : fold 0x2140#16 0x00#8 = 0xF020#16 := by decide
  have h4 : fold 0xF020#16 0x00#8 = 0xD8F1#16 := by decide
  have h5 : fold 0xD8F1#16 0x00#8 = 0x8419#16 := by decide
  have h6 : fold 0x8419#16 0x0A#8 = 0xCDC5#16 := by decide
  simp only [compute, foldMessage_cons, foldMessage_nil, fold_initValue_one, h2, h3, h4, h5, h6]

/-- M8, through the accumulator values after each byte. -/
theorem compute_readRequest_device17 :
    compute [0x11#8, 0x03#8, 0x00#8, 0x6B#8, 0x00#8, 0x03#8] = 0x8776#16 := by
  have h1 : fold initValue 0x11#8 = 0x4C7F#16 := by decide
  have h2 : fold 0x4C7F#16 0x03#8 = 0xE14D#16 := by decide
  have h3 : fold 0xE14D#16 0x00#8 = 0x3521#16 := by decide
  have h4 : fold 0x3521#16 0x6B#8 = 0xF7B4#16 := by decide
  have h5 : fold 0xF7B4#16 0x00#8 = 0x77F7#16 := by decide
  have h6 : fold 0x77F7#16 0x03#8 = 0x8776#16 := by decide
  simp only [compute, foldMessage_cons, foldMessage_nil, h1, h2, h3, h4, h5, h6]

/-! The obligations. -/

/-- Settles O16: the fields of each selector printed are those of the step printed beside it, and of a selector with
`busy = 1` no other field counts. -/
theorem printedSelectorsDecode : Obligations.PrintedSelectorsDecode := by
  unfold Obligations.PrintedSelectorsDecode
  have hshift : ∀ S : Selector, Selector.busy S = 1#1 → decode S = .shift := fun S h => decode_eq_of_selected h
  exact ⟨decode_eq_of_selected ⟨rfl, rfl⟩, decode_eq_of_selected ⟨rfl, rfl⟩, decode_eq_of_selected ⟨rfl, rfl, rfl⟩,
    decode_eq_of_selected ⟨rfl, rfl, rfl⟩, hshift _ rfl, hshift _ rfl, hshift _ rfl, decode_eq_of_selected ⟨rfl, rfl⟩⟩

/-- Settles O17: the conditions of `exec` on `busy`, and before a reset every step is refused. -/
theorem unselectedMeaningIsRefused : Obligations.UnselectedMeaningIsRefused := by
  unfold Obligations.UnselectedMeaningIsRefused
  exact ⟨exec_shift_idle, fun i c n t d hn hi => exec_busy_of_ne_shift hi c hn t d, exists_exec_rsvd_eq_refused⟩

/-- Settles O38: the checks byte by byte, and the halves of a word appended high byte first. -/
theorem printedChecksAreReproduced : Obligations.PrintedChecksAreReproduced := by
  unfold Obligations.PrintedChecksAreReproduced
  exact ⟨compute_readRequest_device1, split_append 0xC5#8 0xCD#8, split_append 0xCD#8 0xC5#8,
    (compute_singleton 0x01#8).trans fold_initValue_one, compute_readRequest_device17⟩

/-- Settles O47: the host's move past an unlisted tick draws its inputs from the free value, and leaves none listed. -/
theorem unlistedTickTakesTheFreeInput : Obligations.UnlistedTickTakesTheFreeInput := by
  unfold Obligations.UnlistedTickTakesTheFreeInput
  exact fun r d => step_eq_step_listed ⟨r, [], d⟩

end Sys2Proof.Machine
end
